-- ==== Sys2Proof/Word.lean ====
section
/-! DEFINITION. The widths of the core (spec 00_scope R9): bytes, 16-bit words, register indices, the framebuffer grid. -/
namespace Sys2Proof

/-- A `u8`: a general register, a timer, one byte of memory, the immediate `kk`. -/
abbrev Byte := BitVec 8

/-- A `u16`: `pc`, `I`, a return address, an instruction word. -/
abbrev Word := BitVec 16

/-- A `u12`: the address immediate `nnn`. -/
abbrev Addr12 := BitVec 12

/-- A register index, the `u4` in an `x` or `y` field: it always names a register that exists (10_state R21). -/
abbrev Reg := Fin 16

/-- The framebuffer `FB[x][y]`: 64 columns of 32 one-bit pixels (10_state R38). -/
abbrev Framebuffer := Vector (Vector Bool 32) 64

end Sys2Proof
end

