-- ==== Sys2Proof/Machine/Flags.lean ====
section
/-! DEFINITION. The flag computations (spec 42_register_alu R167 to R171). Every flag is computed from the operands, "never from the result register after its write" (R162). -/
namespace Sys2Proof.Machine

/-- A flag as it is written to VF: 0x00 or 0x01 (10_state R24). -/
def flagByte (b : Bool) : Byte := if b then 0x01 else 0x00

/-- Carry out of bit 7 (R167). -/
def carryFlag (a b : Byte) : Bool := a.toNat + b.toNat > 255

/-- "Not borrow" of `a - b`, strict: equal operands give 0 (R168, R170). -/
def greaterFlag (a b : Byte) : Bool := a.toNat > b.toNat

/-- The bit a right shift moves out (R169). -/
def lowBitFlag (a : Byte) : Bool := a.toNat % 2 == 1

/-- The bit a left shift moves out (R171). -/
def highBitFlag (a : Byte) : Bool := a.toNat / 128 == 1

end Sys2Proof.Machine
end

