-- ==== Sys2Proof/Config.lean ====
section
/-! DEFINITION. What an implementation fixes (spec 00_scope R7) and the one free value of the spec (42 R182). -/
namespace Sys2Proof.Config

/-- FONT_WRITE_POLICY: what an instruction's write to 0x000..0x04F does (20_memory R67). -/
inductive FontWritePolicy where
  | fault
  | write
deriving DecidableEq, Repr

/-- I_ADD_WRAP: the modulus of the Fx1E addition, 4096 or 65536 and nothing else (43 R191). -/
inductive IAddWrap where
  | w4096
  | w65536
deriving DecidableEq, Repr

/-- SHIFT_SOURCE: the register 8xy6 and 8xyE shift (42 R169, R171). -/
inductive ShiftSource where
  | vx
  | vy
deriving DecidableEq, Repr

/-- RESET_REGS: whether V0..VF, I, DT and ST start written with 0 or start unwritten (60 R263). -/
inductive ResetRegs where
  | zero
  | unwritten
deriving DecidableEq, Repr

/-- The parameters the source leaves open. "a model takes them as arguments" (00_scope R7): they are a constant
part of State (log entry 1), so that a statement about every state is a statement about every parameter value. -/
structure Params where
  /-- STACK_DEPTH, the largest number of return addresses on the call stack. -/
  stackDepth : Nat
  /-- FONT, the bytes of 0x000..0x04F after reset. -/
  font : List Byte
  fontWritePolicy : FontWritePolicy
  iAddWrap : IAddWrap
  shiftSource : ShiftSource
  resetRegs : ResetRegs
deriving DecidableEq, Repr

/-- The byte Cxkk draws when the host has presented none: the spec gives no generator, seed or law (42 R182), so
nothing is known of it. `freeByte k` is the `k`-th such draw. Log entry 2. -/
opaque freeByte : Nat → Byte

end Sys2Proof.Config
end

