-- ==== Sys2Proof/WellFormed.lean ====
section
/-! DEFINITION. What a term must meet beyond its type.

An instruction has nothing left to check: every operand field has exactly the values its bits can hold
(30_encoding R91, "decoded index always within 0–15 by construction of 4-bit fields", 10_state R21, 60 R267), so
every term of `Instr` is well formed. The checks below are of the two things the host hands the core as plain lists:
the parameters and the program image. -/
namespace Sys2Proof

/-- The font table is "16 glyphs of 5 bytes" (20_memory R64). -/
def Config.Params.wf (p : Config.Params) : Bool := p.font.length == 80

/-- A program image is at most 4096 - 0x200 = 3584 bytes (00_scope R6, 70 R290). -/
def imageFits (bytes : List Byte) : Bool := bytes.length ≤ 3584

end Sys2Proof
end

