-- ==== Sys2Proof/Decode.lean ====
section
/-! DEFINITION. The decoder and the encoder (spec 30_encoding). `w[hi:lo]` is "bits hi down to lo of `w`, as a natural"
(00_scope R9), so the fields are cut by division and remainder. -/
namespace Sys2Proof

/-! ### Fields (30_encoding R91) -/

/-- `op = w[15:12]`, the opcode class. -/
def opOf (w : Word) : Nat := w.toNat / 4096

/-- `x = w[11:8]`. -/
def xOf (w : Word) : Reg := Fin.ofNat 16 (w.toNat / 256)

/-- `y = w[7:4]`. -/
def yOf (w : Word) : Reg := Fin.ofNat 16 (w.toNat / 16)

/-- `n = w[3:0]`. -/
def nOf (w : Word) : Fin 16 := Fin.ofNat 16 w.toNat

/-- `kk = w[7:0]`. -/
def kkOf (w : Word) : Byte := BitVec.ofNat 8 w.toNat

/-- `nnn = w[11:0]`. -/
def nnnOf (w : Word) : Addr12 := BitVec.ofNat 12 w.toNat

/-! ### The decoder -/

/-- Class 0: two exact words (R94). -/
def decodeFixed (w : Word) : Option Instr :=
  if w.toNat = 0x00E0 then some .cls else if w.toNat = 0x00EE then some .ret else none

/-- Class 8 by the sub-opcode `n` (R95). -/
def decodeAlu (x y : Reg) (n : Nat) : Option Instr :=
  match n with
  | 0x0 => some (.ldReg x y)
  | 0x1 => some (.orReg x y)
  | 0x2 => some (.andReg x y)
  | 0x3 => some (.xorReg x y)
  | 0x4 => some (.addReg x y)
  | 0x5 => some (.sub x y)
  | 0x6 => some (.shr x y)
  | 0x7 => some (.subn x y)
  | 0xE => some (.shl x y)
  | _ => none

/-- Class E by the sub-opcode `kk` (R96). -/
def decodeKeys (x : Reg) (kk : Byte) : Option Instr :=
  match kk with
  | 0x9E#8 => some (.skp x)
  | 0xA1#8 => some (.sknp x)
  | _ => none

/-- Class F by the sub-opcode `kk` (R96). -/
def decodeMisc (x : Reg) (kk : Byte) : Option Instr :=
  match kk with
  | 0x07#8 => some (.ldVxDt x)
  | 0x0A#8 => some (.ldVxK x)
  | 0x15#8 => some (.ldDtVx x)
  | 0x18#8 => some (.ldStVx x)
  | 0x1E#8 => some (.addI x)
  | 0x29#8 => some (.ldF x)
  | 0x33#8 => some (.ldB x)
  | 0x55#8 => some (.ldMemVx x)
  | 0x65#8 => some (.ldVxMem x)
  | _ => none

/-- The instruction a word stands for, by opcode class (R94); `none` for an unrecognised word (R97). -/
def decodeWord (w : Word) : Option Instr :=
  match opOf w with
  | 0x0 => decodeFixed w
  | 0x1 => some (.jp (nnnOf w))
  | 0x2 => some (.call (nnnOf w))
  | 0x3 => some (.seImm (xOf w) (kkOf w))
  | 0x4 => some (.sneImm (xOf w) (kkOf w))
  | 0x5 => if (nOf w).val = 0 then some (.seReg (xOf w) (yOf w)) else none
  | 0x6 => some (.ldImm (xOf w) (kkOf w))
  | 0x7 => some (.addImm (xOf w) (kkOf w))
  | 0x8 => decodeAlu (xOf w) (yOf w) (nOf w).val
  | 0x9 => if (nOf w).val = 0 then some (.sneReg (xOf w) (yOf w)) else none
  | 0xA => some (.ldI (nnnOf w))
  | 0xB => some (.jpV0 (nnnOf w))
  | 0xC => some (.rnd (xOf w) (kkOf w))
  | 0xD => some (.drw (xOf w) (yOf w) (nOf w))
  | 0xE => decodeKeys (xOf w) (kkOf w)
  | 0xF => decodeMisc (xOf w) (kkOf w)
  | _ => none

/-- Why bytes give no instruction. -/
inductive Rejection where
  /-- Fewer than the two bytes of an instruction (R90). -/
  | truncated
  /-- A word that matches no pattern (R97). The machine reports it and goes on (40_cycle R126). -/
  | unrecognized (w : Word)
deriving DecidableEq, Repr

/-- The word of two bytes, the high byte first (20_memory R69). -/
def joinWord (hi lo : Byte) : Word := BitVec.ofNat 16 (hi.toNat * 256 + lo.toNat)

/-- Decode the first instruction of a byte stream: every instruction is two bytes (R90). -/
def decode : List Byte → Except Rejection (Instr × List Byte)
  | hi :: lo :: rest =>
    match decodeWord (joinWord hi lo) with
    | some i => .ok (i, rest)
    | none => .error (.unrecognized (joinWord hi lo))
  | _ => .error .truncated

/-! ### The encoder -/

/-- A word of four nibbles, the first the most significant (R92). -/
def nibbles (n3 n2 n1 n0 : Nat) : Word := BitVec.ofNat 16 (n3 * 4096 + n2 * 256 + n1 * 16 + n0)

/-- Format NNN. -/
def fmtNNN (op : Nat) (nnn : Addr12) : Word := BitVec.ofNat 16 (op * 4096 + nnn.toNat)

/-- Format XKK. -/
def fmtXKK (op : Nat) (x : Reg) (kk : Byte) : Word := BitVec.ofNat 16 (op * 4096 + x.val * 256 + kk.toNat)

/-- The word of an instruction, from the format table (R92) and the sub-opcode tables (R95, R96). -/
def encode : Instr → Word
  | .cls => nibbles 0x0 0x0 0xE 0x0
  | .ret => nibbles 0x0 0x0 0xE 0xE
  | .jp nnn => fmtNNN 0x1 nnn
  | .call nnn => fmtNNN 0x2 nnn
  | .seImm x kk => fmtXKK 0x3 x kk
  | .sneImm x kk => fmtXKK 0x4 x kk
  | .seReg x y => nibbles 0x5 x y 0x0
  | .ldImm x kk => fmtXKK 0x6 x kk
  | .addImm x kk => fmtXKK 0x7 x kk
  | .ldReg x y => nibbles 0x8 x y 0x0
  | .orReg x y => nibbles 0x8 x y 0x1
  | .andReg x y => nibbles 0x8 x y 0x2
  | .xorReg x y => nibbles 0x8 x y 0x3
  | .addReg x y => nibbles 0x8 x y 0x4
  | .sub x y => nibbles 0x8 x y 0x5
  | .shr x y => nibbles 0x8 x y 0x6
  | .subn x y => nibbles 0x8 x y 0x7
  | .shl x y => nibbles 0x8 x y 0xE
  | .sneReg x y => nibbles 0x9 x y 0x0
  | .ldI nnn => fmtNNN 0xA nnn
  | .jpV0 nnn => fmtNNN 0xB nnn
  | .rnd x kk => fmtXKK 0xC x kk
  | .drw x y n => nibbles 0xD x y n
  | .skp x => nibbles 0xE x 0x9 0xE
  | .sknp x => nibbles 0xE x 0xA 0x1
  | .ldVxDt x => nibbles 0xF x 0x0 0x7
  | .ldVxK x => nibbles 0xF x 0x0 0xA
  | .ldDtVx x => nibbles 0xF x 0x1 0x5
  | .ldStVx x => nibbles 0xF x 0x1 0x8
  | .addI x => nibbles 0xF x 0x1 0xE
  | .ldF x => nibbles 0xF x 0x2 0x9
  | .ldB x => nibbles 0xF x 0x3 0x3
  | .ldMemVx x => nibbles 0xF x 0x5 0x5
  | .ldVxMem x => nibbles 0xF x 0x6 0x5

/-- The high byte of a word, the one stored first. -/
def hiByte (w : Word) : Byte := BitVec.ofNat 8 (w.toNat / 256)

/-- The low byte of a word. -/
def loByte (w : Word) : Byte := BitVec.ofNat 8 w.toNat

/-- A word as the hardware stores it, big-endian (20_memory R70). -/
def wordBytes (w : Word) : List Byte := [hiByte w, loByte w]

/-! ### The opcode table as data (40_cycle R124) -/

/-- One row of the opcode table: a word matches when `(w & mask) = pattern`. -/
structure OpRow where
  mnemonic : String
  pattern : Word
  mask : Word
deriving DecidableEq, Repr

/-- The row matches the word (R124). -/
def OpRow.matchesWord (r : OpRow) (w : Word) : Bool := w &&& r.mask == r.pattern

/-- The row an instruction belongs to. -/
def rowOf : Instr → OpRow
  | .cls => ⟨"CLS", 0x00E0, 0xFFFF⟩
  | .ret => ⟨"RET", 0x00EE, 0xFFFF⟩
  | .jp _ => ⟨"JP", 0x1000, 0xF000⟩
  | .call _ => ⟨"CALL", 0x2000, 0xF000⟩
  | .seImm _ _ => ⟨"SE_imm", 0x3000, 0xF000⟩
  | .sneImm _ _ => ⟨"SNE_imm", 0x4000, 0xF000⟩
  | .seReg _ _ => ⟨"SE_reg", 0x5000, 0xF00F⟩
  | .ldImm _ _ => ⟨"LD_imm", 0x6000, 0xF000⟩
  | .addImm _ _ => ⟨"ADD_imm", 0x7000, 0xF000⟩
  | .ldReg _ _ => ⟨"LD_reg", 0x8000, 0xF00F⟩
  | .orReg _ _ => ⟨"OR", 0x8001, 0xF00F⟩
  | .andReg _ _ => ⟨"AND", 0x8002, 0xF00F⟩
  | .xorReg _ _ => ⟨"XOR", 0x8003, 0xF00F⟩
  | .addReg _ _ => ⟨"ADD_reg", 0x8004, 0xF00F⟩
  | .sub _ _ => ⟨"SUB", 0x8005, 0xF00F⟩
  | .shr _ _ => ⟨"SHR", 0x8006, 0xF00F⟩
  | .subn _ _ => ⟨"SUBN", 0x8007, 0xF00F⟩
  | .shl _ _ => ⟨"SHL", 0x800E, 0xF00F⟩
  | .sneReg _ _ => ⟨"SNE_reg", 0x9000, 0xF00F⟩
  | .ldI _ => ⟨"LD_I", 0xA000, 0xF000⟩
  | .jpV0 _ => ⟨"JP_V0", 0xB000, 0xF000⟩
  | .rnd _ _ => ⟨"RND", 0xC000, 0xF000⟩
  | .drw _ _ _ => ⟨"DRW", 0xD000, 0xF000⟩
  | .skp _ => ⟨"SKP", 0xE09E, 0xF0FF⟩
  | .sknp _ => ⟨"SKNP", 0xE0A1, 0xF0FF⟩
  | .ldVxDt _ => ⟨"LD_Vx_DT", 0xF007, 0xF0FF⟩
  | .ldVxK _ => ⟨"LD_Vx_K", 0xF00A, 0xF0FF⟩
  | .ldDtVx _ => ⟨"LD_DT_Vx", 0xF015, 0xF0FF⟩
  | .ldStVx _ => ⟨"LD_ST_Vx", 0xF018, 0xF0FF⟩
  | .addI _ => ⟨"ADD_I", 0xF01E, 0xF0FF⟩
  | .ldF _ => ⟨"LD_F", 0xF029, 0xF0FF⟩
  | .ldB _ => ⟨"LD_B", 0xF033, 0xF0FF⟩
  | .ldMemVx _ => ⟨"LD_mem_Vx", 0xF055, 0xF0FF⟩
  | .ldVxMem _ => ⟨"LD_Vx_mem", 0xF065, 0xF0FF⟩

/-- One instruction of each row of classes 0 to 7, in the table's order (operands do not matter to the row). -/
def oneOfEachLow : List Instr :=
  [.cls, .ret, .jp 0, .call 0, .seImm 0 0, .sneImm 0 0, .seReg 0 0, .ldImm 0 0, .addImm 0 0]

/-- As `oneOfEachLow`, for classes 8 to D. -/
def oneOfEachMid : List Instr :=
  [.ldReg 0 0, .orReg 0 0, .andReg 0 0, .xorReg 0 0, .addReg 0 0, .sub 0 0, .shr 0 0, .subn 0 0, .shl 0 0,
    .sneReg 0 0, .ldI 0, .jpV0 0, .rnd 0 0, .drw 0 0 0]

/-- As `oneOfEachLow`, for classes E and F. -/
def oneOfEachHigh : List Instr :=
  [.skp 0, .sknp 0, .ldVxDt 0, .ldVxK 0, .ldDtVx 0, .ldStVx 0, .addI 0, .ldF 0, .ldB 0, .ldMemVx 0, .ldVxMem 0]

/-- The opcode table: 34 rows (00_scope R2). -/
def opcodeTable : List OpRow := (oneOfEachLow ++ oneOfEachMid ++ oneOfEachHigh).map rowOf

/-! ### The host's numbering of a row's bits -/

/-- The instruction the decoder reads from the word `w` of a table row of `nbits` bits: the word is laid out high
byte first, as memory holds it, and given to `decode`. Bits at or above `nbits` are 0. -/
def decodeTableWord (nbits w : Nat) : Option Instr :=
  match decode (wordBytes (BitVec.ofNat 16 (w % 2 ^ nbits))) with
  | .ok (i, _) => some i
  | .error _ => none

end Sys2Proof
end

