-- ==== Sys2Proof/Machine/Defaults.lean ====
section
/-! DEFINITION. The default parameter values (spec 00_scope R7) and the values registers hold after reset (10_state R51, R52). -/
namespace Sys2Proof.Machine

open Sys2Proof.Config

/-- The default FONT: glyph `d` is bytes `5d..5d+4` (20_memory R64). The source gives the shape and not the bytes; these
are the conventional ones. PRESUMED, unsafe: log entry 6. -/
def defaultFont : List Byte :=
  [0xF0, 0x90, 0x90, 0x90, 0xF0] ++ [0x20, 0x60, 0x20, 0x20, 0x70] ++
  [0xF0, 0x10, 0xF0, 0x80, 0xF0] ++ [0xF0, 0x10, 0xF0, 0x10, 0xF0] ++
  [0x90, 0x90, 0xF0, 0x10, 0x10] ++ [0xF0, 0x80, 0xF0, 0x10, 0xF0] ++
  [0xF0, 0x80, 0xF0, 0x90, 0xF0] ++ [0xF0, 0x10, 0x20, 0x40, 0x40] ++
  [0xF0, 0x90, 0xF0, 0x90, 0xF0] ++ [0xF0, 0x90, 0xF0, 0x10, 0xF0] ++
  [0xF0, 0x90, 0xF0, 0x90, 0x90] ++ [0xE0, 0x90, 0xE0, 0x90, 0xE0] ++
  [0xF0, 0x80, 0x80, 0x80, 0xF0] ++ [0xE0, 0x90, 0x90, 0x90, 0xE0] ++
  [0xF0, 0x80, 0xF0, 0x80, 0xF0] ++ [0xF0, 0x80, 0xF0, 0x80, 0x80]

/-- The defaults of 00_scope R7. DESIGN CHOICE of the spec where the source is silent, unsafe: log entries 13 to 16. -/
def defaultParams : Params where
  stackDepth := 16
  font := defaultFont
  fontWritePolicy := .fault
  iAddWrap := .w4096
  shiftSource := .vx
  resetRegs := .zero

/-- The program starts at 0x200 (10_state R51, 70 R293). -/
def loadAddress : Nat := 0x200

/-- `pc` after reset (10_state R51). -/
def resetPc : Word := 0x200

/-- V0..VF, DT and ST after reset (10_state R52). DESIGN CHOICE, unsafe: log entry 5. -/
def resetByte : Byte := 0x00

/-- I, and every stack entry, after reset (10_state R52). DESIGN CHOICE, unsafe: log entry 5. -/
def resetWord : Word := 0x0000

/-- The written bits after reset: set under RESET_REGS = Zero, clear under Unwritten (60 R263). -/
def resetWritten (p : Params) : Bool := p.resetRegs == .zero

end Sys2Proof.Machine
end

