-- ==== Sys2Proof/Machine/State.lean ====
section
/-! DEFINITION. The state of the core (spec 10_state), the reasons a run can end, and the state after reset. -/
namespace Sys2Proof.Machine

open Sys2Proof.Config

/-- The fault causes 1..9 of 60_exceptions R260; code 0, no fault, is `none` in `FaultRegs.cause`. -/
inductive FaultCause where
  | fetchOutOfRange
  | readOutOfRange
  | writeOutOfRange
  | stackOverflow
  | stackUnderflow
  | keyIndexOutOfRange
  | fontRegionWrite
  | loadTooLarge
  | unwrittenRead
deriving DecidableEq, Repr

/-- FAULT_CAUSE, FAULT_PC and FAULT_ADDR (10_state R36). -/
structure FaultRegs where
  cause : Option FaultCause
  pc : Word
  addr : Word
deriving DecidableEq, Repr

/-- The written bits of V0..VF, I, DT and ST (60 R263). -/
structure Written where
  v : Vector Bool 16
  i : Bool
  dt : Bool
  st : Bool
deriving DecidableEq, Repr

/-- One `Unrecognized(pc, w)` output event (60 R266). -/
structure Event where
  pc : Word
  word : Word
deriving DecidableEq, Repr

/-- The operations the host performs on the input ports (10_state R41, R42, R45 to R47). -/
inductive PortOp where
  | step
  | tick
  | keySet (index : Fin 16) (pressed : Bool)
  | presentAck
  | load (bytes : List Byte)
deriving DecidableEq, Repr

/-- The bytes of MEM that differ from its contents after reset, addresses strictly rising. -/
abbrev Memory := List Host.Cell

/-- Everything the spec gives the machine, and five fields of the model's own (`params`, `rng`, `draws`, `events`,
`host`: log entries 1, 2, 4, 9). MODE is a function of the state (10_state R37). -/
structure State where
  /-- V0..VF (R20); VF is `v[15]` (R23). -/
  v : Vector Byte 16
  /-- The address register I (R25). -/
  i : Word
  /-- The program counter (R27). -/
  pc : Word
  /-- SP, the number of stack entries in use (R30). -/
  sp : Nat
  /-- STACK[0..STACK_DEPTH-1] (R30). -/
  stack : List Word
  /-- The delay timer (R33). -/
  dt : Byte
  /-- The sound timer (R33). -/
  st : Byte
  /-- AWAIT (R35). -/
  await : Bool
  /-- AWAIT_X (R35). -/
  awaitX : Reg
  /-- The fault status registers (R36). -/
  fault : FaultRegs
  /-- FB (R38). -/
  fb : Framebuffer
  /-- DIRTY (R39). -/
  dirty : Bool
  /-- KEY (R40). -/
  key : Vector Bool 16
  /-- MEM (20_memory R60). -/
  mem : Memory
  /-- The written bits (60 R263). -/
  written : Written
  /-- The parameters of the machine, constant (R48). Log entry 1. -/
  params : Params
  /-- The bytes presented at the `rng` port and not yet consumed, oldest first (R47). Log entry 2. -/
  rng : List Byte
  /-- How many bytes Cxkk has drawn with none presented. Log entry 2. -/
  draws : Nat
  /-- The history of output events, newest first (60 R268). Log entry 9. -/
  events : List Event
  /-- The port operations the host has lined up, oldest first; with none, it strobes `step` (R47). Log entry 4. -/
  host : List PortOp
deriving DecidableEq, Repr

/-- How a run ends. A fatal condition of the spec is no constructor here: it is a next state in Faulted mode
(60 R261). Both constructors say that an operation was asked for that is not enabled in that mode, and carry the
fault registers. Log entry 8. -/
inductive Fault where
  /-- Raised by the `step` port in Faulted mode: "no step is enabled" (40_cycle R120, 60 R265). Safe. -/
  | stepDisabled (f : FaultRegs)
  /-- Raised by the `tick` port in Faulted mode (10_state R42, 60 R265). Safe. -/
  | tickDisabled (f : FaultRegs)
deriving DecidableEq, Repr

/-- Why the model gives no meaning. -/
inductive Refusal where
  /-- Raised by an arm of `exec` whose instruction has no meaning yet; no arm raises it. Safe. -/
  | notModelled (mnemonic : String)
deriving DecidableEq, Repr

/-- The state after `load` of an empty image under parameters `p` (70 R290, 10_state R51, R52). -/
def State.resetWith (p : Params) : State where
  v := Vector.replicate 16 resetByte
  i := resetWord
  pc := resetPc
  sp := 0
  stack := List.replicate p.stackDepth resetWord
  dt := resetByte
  st := resetByte
  await := false
  awaitX := 0
  fault := ⟨none, 0, 0⟩
  fb := Vector.replicate 64 (Vector.replicate 32 false)
  dirty := false
  key := Vector.replicate 16 false
  mem := []
  written := ⟨Vector.replicate 16 (resetWritten p), resetWritten p, resetWritten p, resetWritten p⟩
  params := p
  rng := []
  draws := 0
  events := []
  host := []

/-- The machine right after reset, with the default parameters. -/
def State.reset : State := State.resetWith defaultParams

end Sys2Proof.Machine
end

