-- ==== Sys2Proof/Machine/Ops.lean ====
section
/-! DEFINITION. The named operations over registers and memory (spec 10_state, 20_memory), and taking a fault (60_exceptions R261). -/
namespace Sys2Proof.Machine

open Sys2Proof.Config

/-! ### Mode (10_state R37) -/

/-- The three modes. -/
inductive Mode where
  | running
  | awaitingKey
  | faulted
deriving DecidableEq, Repr

/-- MODE, a function of the state (R37). -/
def State.mode (s : State) : Mode :=
  if s.fault.cause.isSome then .faulted else if s.await then .awaitingKey else .running

/-! ### Register writes

A write to V0..VF, I, DT or ST also sets its written bit (60 R263). -/

/-- The flag register VF is general register 15 (R23). -/
def vf : Reg := 15

/-- `V[x] <- b`. -/
def State.setV (s : State) (x : Reg) (b : Byte) : State :=
  { s with v := s.v.set x b, written := { s.written with v := s.written.v.set x true } }

/-- `V[F] <- flag` (R24). -/
def State.setFlag (s : State) (f : Bool) : State := s.setV vf (flagByte f)

/-- `I <- w`. -/
def State.setI (s : State) (w : Word) : State := { s with i := w, written := { s.written with i := true } }

/-- `DT <- b`. -/
def State.setDT (s : State) (b : Byte) : State := { s with dt := b, written := { s.written with dt := true } }

/-- `ST <- b`. -/
def State.setST (s : State) (b : Byte) : State := { s with st := b, written := { s.written with st := true } }

/-- `pc <- w`. -/
def State.setPc (s : State) (w : Word) : State := { s with pc := w }

/-- `npc = pc + 2`, the next instruction in sequence (40_cycle R122). -/
def State.npc (s : State) : Word := s.pc + 2

/-- `pc <- npc`. -/
def State.advance (s : State) : State := s.setPc s.npc

/-- `if c: pc <- npc + 2 else pc <- npc` (41 R148). -/
def State.skipIf (s : State) (c : Bool) : State := s.setPc (if c then s.npc + 2 else s.npc)

/-! ### The call stack (10_state R31)

The overflow and underflow checks are the instructions' own; these are the moves after the check. -/

/-- `STACK[SP] <- w; SP <- SP + 1`. -/
def State.push (s : State) (w : Word) : State := { s with stack := s.stack.set s.sp w, sp := s.sp + 1 }

/-- `SP <- SP - 1`; the entry above stays as it was. -/
def State.pop (s : State) : State := { s with sp := s.sp - 1 }

/-- `STACK[SP - 1]`, the entry a pop returns. -/
def State.stackTop (s : State) : Word := s.stack.getD (s.sp - 1) 0

/-! ### Memory contents (20_memory) -/

/-- The font region is 0x000..0x04F (R62). -/
def fontEnd : Nat := 0x050

/-- What an address holds after reset with no program: FONT below 0x050, else 0x00 (R62, R63). An address the
memory does not list reads as this. Log entry 7. -/
def memBase (font : List Byte) (a : Nat) : Byte := if a < fontEnd then font.getD a 0x00 else 0x00

/-- The byte listed at an address. -/
def memLookup : Memory → Nat → Option Byte
  | [], _ => none
  | (b, w) :: m, a => if a = b then some w else memLookup m a

/-- List a byte at an address, in its place. -/
def memInsert (a : Nat) (v : Byte) : Memory → Memory
  | [] => [(a, v)]
  | (b, w) :: m => if a < b then (a, v) :: (b, w) :: m else if a = b then (a, v) :: m else (b, w) :: memInsert a v m

/-- List nothing at an address. -/
def memErase (a : Nat) : Memory → Memory
  | [] => []
  | (b, w) :: m => if a = b then memErase a m else (b, w) :: memErase a m

/-- Memory with byte `v` at address `a`, in the canonical form. -/
def memWrite (font : List Byte) (a : Nat) (v : Byte) (m : Memory) : Memory :=
  if v = memBase font a then memErase a m else memInsert a v m

/-- The number of addresses (R60). -/
def memSize : Nat := 4096

/-- The canonical form: addresses strictly rising, inside the address space, and no byte listed that reads the same
unlisted. -/
abbrev Memory.wf (font : List Byte) (m : Memory) : Prop :=
  m.Pairwise (fun c d => c.1 < d.1) ∧ ∀ c ∈ m, c.1 < memSize ∧ c.2 ≠ memBase font c.1

/-- `MEM[a]`. The range check is `checkRead`. -/
def State.readByte (s : State) (a : Nat) : Byte := (memLookup s.mem a).getD (memBase s.params.font a)

/-- `MEM[a] <- v`. The checks are `checkWrite`. -/
def State.writeByte (s : State) (a : Nat) (v : Byte) : State := { s with mem := memWrite s.params.font a v s.mem }

/-- `n` bytes in ascending order from `a`. -/
def State.readBytes (s : State) (a n : Nat) : List Byte := (List.range n).map fun k => s.readByte (a + k)

/-- Bytes stored in ascending order from `a`. -/
def State.writeBytes (s : State) (a : Nat) : List Byte → State
  | [] => s
  | b :: bs => (s.writeByte a b).writeBytes (a + 1) bs

/-! ### Taking a fault (60_exceptions R261, R262) -/

/-- What `raise Fault(cause, info)` carries. -/
structure FaultInfo where
  cause : FaultCause
  info : Nat
deriving DecidableEq, Repr

/-- A value, or the first fault raised on the way to it (R264). -/
abbrev Checked (α : Type) := Except FaultInfo α

/-- Taking a fault: the fault registers are written and nothing else changes; the core is then in Faulted mode, with
`pc` at the instruction that faulted (R261, R262). There is no handler, and nothing returns: only `load` leaves the
mode (R265). -/
def State.raiseFault (s : State) (f : FaultInfo) : State :=
  { s with fault := ⟨some f.cause, s.pc, BitVec.ofNat 16 f.info⟩ }

/-- The end of a step that began in `s`: the state it reached, or the fault it raised with every write discarded
(R261). Both are next states. -/
def State.settle (s : State) (r : Checked State) : Host.Outcome State Fault Refusal :=
  match r with
  | .ok t => .next t
  | .error f => .next (s.raiseFault f)

/-! ### Memory checks (20_memory R66, R67, R73) -/

/-- The check of `MemRead(a, 1)` (R66). -/
def checkRead (a : Nat) : Checked Unit :=
  if a > 0xFFF then .error ⟨.readOutOfRange, a⟩ else .ok ()

/-- The check of `MemWrite(a, 1, v)`: the range, then the font region (R67). -/
def checkWrite (p : FontWritePolicy) (a : Nat) : Checked Unit :=
  if a > 0xFFF then .error ⟨.writeOutOfRange, a⟩
  else if a ≤ 0x04F ∧ p = .fault then .error ⟨.fontRegionWrite, a⟩
  else .ok ()

/-- Check `n` addresses from `a` in ascending order; the first that fails gives the fault (R73). -/
def checkRange (check : Nat → Checked Unit) (a : Nat) : Nat → Checked Unit
  | 0 => .ok ()
  | n + 1 => do
    check a
    checkRange check (a + 1) n

/-! ### Fetch (20_memory R69) -/

/-- The check of an address `Fetch` reads. -/
def checkFetch (a : Nat) : Checked Unit :=
  if a > 0xFFF then .error ⟨.fetchOutOfRange, a⟩ else .ok ()

/-- The word at `pc`, big-endian; the address `pc + 1` is a natural and does not wrap (R69). -/
def State.fetch (s : State) : Checked Word := do
  checkFetch s.pc.toNat
  checkFetch (s.pc.toNat + 1)
  .ok (joinWord (s.readByte s.pc.toNat) (s.readByte (s.pc.toNat + 1)))

/-! ### Output event and random byte -/

/-- `report Unrecognized(pc, w)`, then `pc <- npc` (40_cycle R126, 60 R266). -/
def State.reportUnrecognized (s : State) (w : Word) : State :=
  { s with events := ⟨s.pc, w⟩ :: s.events }.advance

/-- `draw_byte()`: the byte presented at the `rng` port, or a value of which nothing is known (42 R182). -/
def State.drawnByte (s : State) : Byte :=
  match s.rng with
  | r :: _ => r
  | [] => freeByte s.draws

/-- The inputs after a draw: each draw is a new byte (42 R182). -/
def State.consumeByte (s : State) : State :=
  match s.rng with
  | _ :: rs => { s with rng := rs }
  | [] => { s with draws := s.draws + 1 }

/-! ### The key poll (45_keypad_timers R240, R241) -/

/-- `min { k | KEY[k] = 1 }`. -/
def State.firstPressed (s : State) : Option (Fin 16) := (List.finRange 16).find? fun k => s.key[k]

/-- A step in AwaitingKey mode: nothing is fetched and `pc` stays. -/
def State.keyPoll (s : State) : State :=
  match s.firstPressed with
  | none => s
  | some k => { s.setV s.awaitX (BitVec.ofNat 8 k.val) with await := false }

end Sys2Proof.Machine
end

