-- ==== Sys2Proof/Machine/Operands.lean ====
section
/-! DEFINITION. The operand forms: checked register reads, the shifted register, the effective address, the key index, the register block (spec 30_encoding R93, 43 R196, 60 R263). -/
namespace Sys2Proof.Machine

open Sys2Proof.Config

/-- A register with a written bit. -/
inductive RegId where
  | v (x : Reg)
  | i
  | dt
  | st
deriving DecidableEq, Repr

/-- The register id FAULT_ADDR records for UNWRITTEN_READ (60 R260). -/
def RegId.id : RegId → Nat
  | .v x => x.val
  | .i => 16
  | .dt => 17
  | .st => 18

/-- The written bit of a register (60 R263). -/
def Written.get (w : Written) : RegId → Bool
  | .v x => w.v[x]
  | .i => w.i
  | .dt => w.dt
  | .st => w.st

/-- A read of the register does not fault: always under RESET_REGS = Zero, else when it has been written (60 R263). -/
def State.readable (s : State) (r : RegId) : Bool := s.params.resetRegs == .zero || s.written.get r

/-- A value read from register `r`, or UNWRITTEN_READ (00_scope R11, 60 R263). -/
def State.readReg {α : Type} (s : State) (r : RegId) (value : α) : Checked α :=
  if s.readable r then .ok value else .error ⟨.unwrittenRead, r.id⟩

/-- Read `V[x]`. -/
def State.readV (s : State) (x : Reg) : Checked Byte := s.readReg (.v x) s.v[x]

/-- Read I. -/
def State.readI (s : State) : Checked Word := s.readReg .i s.i

/-- Read DT. -/
def State.readDT (s : State) : Checked Byte := s.readReg .dt s.dt

/-- Read ST. -/
def State.readST (s : State) : Checked Byte := s.readReg .st s.st

/-- The operands of a class-8 instruction: "reads `a = V[x]` and `b = V[y]` at the start of the step" (42 R162). -/
def State.readPair (s : State) (x y : Reg) : Checked (Byte × Byte) := do
  let a ← s.readV x
  let b ← s.readV y
  .ok (a, b)

/-- The value 8xy6 and 8xyE shift (42 R169, R171). Under SHIFT_SOURCE = Vx "the y field is ignored", so `V[y]` is not
read. Log entry 10. -/
def State.shiftOperand (s : State) (x y : Reg) : Checked Byte :=
  match s.params.shiftSource with
  | .vx => s.readV x
  | .vy => do
    let (_, b) ← s.readPair x y
    .ok b

/-- The effective address `I + k`, a natural: "The sum is not wrapped" (43 R196). -/
def State.ea (s : State) (k : Nat) : Nat := s.i.toNat + k

/-- The modulus of Fx1E (43 R191). -/
def modulus : IAddWrap → Nat
  | .w4096 => 4096
  | .w65536 => 65536

/-- The key index in a register: `if k > 0xF: raise Fault(KEY_INDEX_OUT_OF_RANGE, k)` (45 R230). -/
def keyIndex (k : Byte) : Checked (Fin 16) :=
  if h : k.toNat < 16 then .ok ⟨k.toNat, h⟩ else .error ⟨.keyIndexOutOfRange, k.toNat⟩

/-- The registers V0..Vx of a block transfer, in order (43 R194, R195). -/
def blockRegs (x : Reg) : List Reg := (List.finRange 16).take (x.val + 1)

/-- The values of registers, read in order. -/
def State.readRegs (s : State) : List Reg → Checked (List Byte)
  | [] => .ok []
  | x :: xs => do
    let b ← s.readV x
    let bs ← s.readRegs xs
    .ok (b :: bs)

/-- `V[k] <- MEM[I + k]` for each register of a list, in order (43 R195). -/
def State.loadRegs (s : State) : List Reg → State
  | [] => s
  | x :: xs => (s.setV x (s.readByte (s.ea x.val))).loadRegs xs

/-- The decimal digits of a byte, hundreds first (43 R193). -/
def bcdDigits (v : Byte) : List Byte :=
  [BitVec.ofNat 8 (v.toNat / 100), BitVec.ofNat 8 (v.toNat / 10 % 10), BitVec.ofNat 8 (v.toNat % 10)]

end Sys2Proof.Machine
end

