-- ==== Sys2Proof/Machine/Alu.lean ====
section
/-! DEFINITION. Immediate loads and adds, the register-register ALU, the random byte (spec 42_register_alu).

The result is written before the flag, so with x = F the flag is what VF holds (R162). -/
namespace Sys2Proof.Machine

/-- 6xkk, LD Vx, kk (R160). -/
def execLdImm (x : Reg) (kk : Byte) (s : State) : Host.Outcome State Fault Refusal :=
  s.settle (.ok (s.setV x kk).advance)

/-- 7xkk, ADD Vx, kk (R161): no flag. -/
def execAddImm (x : Reg) (kk : Byte) (s : State) : Host.Outcome State Fault Refusal :=
  s.settle do
    let a ← s.readV x
    .ok (s.setV x (BitVec.ofNat 8 (a.toNat + kk.toNat))).advance

/-- 8xy0, LD Vx, Vy (R163). `V[x]` is read too (R162). Log entry 10. -/
def execLdReg (x y : Reg) (s : State) : Host.Outcome State Fault Refusal :=
  s.settle do
    let (_, b) ← s.readPair x y
    .ok (s.setV x b).advance

/-- 8xy1, OR Vx, Vy (R164): VF is not written. -/
def execOrReg (x y : Reg) (s : State) : Host.Outcome State Fault Refusal :=
  s.settle do
    let (a, b) ← s.readPair x y
    .ok (s.setV x (a ||| b)).advance

/-- 8xy2, AND Vx, Vy (R165): VF is not written. -/
def execAndReg (x y : Reg) (s : State) : Host.Outcome State Fault Refusal :=
  s.settle do
    let (a, b) ← s.readPair x y
    .ok (s.setV x (a &&& b)).advance

/-- 8xy3, XOR Vx, Vy (R166): VF is not written. -/
def execXorReg (x y : Reg) (s : State) : Host.Outcome State Fault Refusal :=
  s.settle do
    let (a, b) ← s.readPair x y
    .ok (s.setV x (a ^^^ b)).advance

/-- 8xy4, ADD Vx, Vy (R167): the exact sum, reduced; VF the carry. -/
def execAddReg (x y : Reg) (s : State) : Host.Outcome State Fault Refusal :=
  s.settle do
    let (a, b) ← s.readPair x y
    .ok ((s.setV x (BitVec.ofNat 8 (a.toNat + b.toNat))).setFlag (carryFlag a b)).advance

/-- 8xy5, SUB Vx, Vy (R168): "a - b taken as an integer, then reduced"; VF is 1 only if a > b. -/
def execSub (x y : Reg) (s : State) : Host.Outcome State Fault Refusal :=
  s.settle do
    let (a, b) ← s.readPair x y
    .ok ((s.setV x (BitVec.ofInt 8 (a.toNat - b.toNat))).setFlag (greaterFlag a b)).advance

/-- 8xy6, SHR Vx, Vy (R169). -/
def execShr (x y : Reg) (s : State) : Host.Outcome State Fault Refusal :=
  s.settle do
    let a ← s.shiftOperand x y
    .ok ((s.setV x (a >>> 1)).setFlag (lowBitFlag a)).advance

/-- 8xy7, SUBN Vx, Vy (R170): Vy - Vx; VF is 1 only if b > a. -/
def execSubn (x y : Reg) (s : State) : Host.Outcome State Fault Refusal :=
  s.settle do
    let (a, b) ← s.readPair x y
    .ok ((s.setV x (BitVec.ofInt 8 (b.toNat - a.toNat))).setFlag (greaterFlag b a)).advance

/-- 8xyE, SHL Vx, Vy (R171). -/
def execShl (x y : Reg) (s : State) : Host.Outcome State Fault Refusal :=
  s.settle do
    let a ← s.shiftOperand x y
    .ok ((s.setV x (a <<< 1)).setFlag (highBitFlag a)).advance

/-- Cxkk, RND Vx, kk (R182): the drawn byte is free. Log entry 2. -/
def execRnd (x : Reg) (kk : Byte) (s : State) : Host.Outcome State Fault Refusal :=
  s.settle (.ok (s.consumeByte.setV x (kk &&& s.drawnByte)).advance)

end Sys2Proof.Machine
end

