-- ==== Sys2Proof/Machine/ControlFlow.lean ====
section
/-! DEFINITION. Jumps, call, return and skips (spec 41_control_flow). -/
namespace Sys2Proof.Machine

/-- 1nnn, JP nnn (R140). -/
def execJp (nnn : Addr12) (s : State) : Host.Outcome State Fault Refusal :=
  s.settle (.ok (s.setPc (nnn.setWidth 16)))

/-- 2nnn, CALL nnn (R141). -/
def execCall (nnn : Addr12) (s : State) : Host.Outcome State Fault Refusal :=
  s.settle
    (if s.sp = s.params.stackDepth then .error ⟨.stackOverflow, s.npc.toNat⟩
     else .ok ((s.push s.npc).setPc (nnn.setWidth 16)))

/-- 00EE, RET (R142). The popped address is used as it is. -/
def execRet (s : State) : Host.Outcome State Fault Refusal :=
  s.settle (if s.sp = 0 then .error ⟨.stackUnderflow, 0⟩ else .ok (s.pop.setPc s.stackTop))

/-- 3xkk, SE Vx, kk (R143). -/
def execSeImm (x : Reg) (kk : Byte) (s : State) : Host.Outcome State Fault Refusal :=
  s.settle do
    let a ← s.readV x
    .ok (s.skipIf (a == kk))

/-- 4xkk, SNE Vx, kk (R144). -/
def execSneImm (x : Reg) (kk : Byte) (s : State) : Host.Outcome State Fault Refusal :=
  s.settle do
    let a ← s.readV x
    .ok (s.skipIf (a != kk))

/-- 5xy0, SE Vx, Vy (R145). -/
def execSeReg (x y : Reg) (s : State) : Host.Outcome State Fault Refusal :=
  s.settle do
    let (a, b) ← s.readPair x y
    .ok (s.skipIf (a == b))

/-- 9xy0, SNE Vx, Vy (R146). -/
def execSneReg (x y : Reg) (s : State) : Host.Outcome State Fault Refusal :=
  s.settle do
    let (a, b) ← s.readPair x y
    .ok (s.skipIf (a != b))

/-- Bnnn, JP V0, nnn (R147). The sum is at most 0x10FE: no wrap, no mask. -/
def execJpV0 (nnn : Addr12) (s : State) : Host.Outcome State Fault Refusal :=
  s.settle do
    let a ← s.readV 0
    .ok (s.setPc (BitVec.ofNat 16 (nnn.toNat + a.toNat)))

end Sys2Proof.Machine
end

