-- ==== Sys2Proof/Machine/Display.lean ====
section
/-! DEFINITION. The display instructions, the XOR blitter and the collision detector (spec 44_display). -/
namespace Sys2Proof.Machine

/-- Every pixel 0. -/
def blankFb : Framebuffer := Vector.replicate 64 (Vector.replicate 32 false)

/-- One pixel, `FB[X][Y]`. -/
def pixel (fb : Framebuffer) (X : Fin 64) (Y : Fin 32) : Bool := fb[X][Y]

/-- `FB[X][Y] <- FB[X][Y] ^ 1`. -/
def togglePixel (fb : Framebuffer) (X : Fin 64) (Y : Fin 32) : Framebuffer :=
  fb.set X ((fb[X]).set Y (!pixel fb X Y))

/-- The variables of `blit` (R213). -/
structure Blit where
  fb : Framebuffer
  collision : Bool
  changed : Bool
deriving DecidableEq, Repr

/-- The body of `blit`'s inner loop for a sprite bit that is 1: a pixel that goes from 1 to 0 is a collision. -/
def Blit.plot (b : Blit) (X : Fin 64) (Y : Fin 32) : Blit :=
  ⟨togglePixel b.fb X Y, b.collision || pixel b.fb X Y, true⟩

/-- The column of sprite bit `j`: `(px + j) mod 64` (R215). -/
def targetX (px : Byte) (j : Nat) : Fin 64 := Fin.ofNat 64 (px.toNat + j)

/-- The line of sprite row `i`: `(py + i) mod 32` (R215). -/
def targetY (py : Byte) (i : Nat) : Fin 32 := Fin.ofNat 32 (py.toNat + i)

/-- Sprite bit `(i, j)`: "bit 7 is the leftmost pixel" (R213). -/
def spriteBit (row : Byte) (j : Nat) : Bool := row.getLsbD (7 - j)

/-- The inner loop of `blit`, over bit positions `j` of row `i`. -/
def blitRow (px py : Byte) (i : Nat) (row : Byte) : List Nat → Blit → Blit
  | [], b => b
  | j :: js, b =>
    blitRow px py i row js (if spriteBit row j then b.plot (targetX px j) (targetY py i) else b)

/-- The outer loop of `blit`, over rows from row `i` on. -/
def blitRows (px py : Byte) : Nat → List Byte → Blit → Blit
  | _, [], b => b
  | i, row :: rows, b => blitRows px py (i + 1) rows (blitRow px py i row (List.range 8) b)

/-- `blit(px, py, row[0..n])` on a framebuffer (R213). -/
def blit (px py : Byte) (rows : List Byte) (fb : Framebuffer) : Blit := blitRows px py 0 rows ⟨fb, false, false⟩

/-- 00E0, CLS (R210): DIRTY is set whatever the pixels were. -/
def execCls (s : State) : Host.Outcome State Fault Refusal :=
  s.settle (.ok { s with fb := blankFb, dirty := true }.advance)

/-- The writes of a draw after its checks: pixels, DIRTY, then VF (R211, R212). -/
def State.draw (s : State) (px py : Byte) (n : Nat) : State :=
  let b := blit px py (s.readBytes (s.ea 0) n) s.fb
  ({ s with fb := b.fb, dirty := s.dirty || b.changed }.setFlag b.collision).advance

/-- The base address of `n` rows: with n = 0 no row is read, so I is not read either and nothing faults "whatever I
is" (R217). Log entry 10. -/
def State.readRowBase (s : State) (n : Nat) : Checked Word := if n = 0 then .ok s.i else s.readI

/-- Dxyn, DRW Vx, Vy, n (R211). -/
def execDrw (x y : Reg) (n : Fin 16) (s : State) : Host.Outcome State Fault Refusal :=
  s.settle do
    let px ← s.readV x
    let py ← s.readV y
    let _ ← s.readRowBase n.val
    checkRange checkRead (s.ea 0) n.val
    .ok (s.draw px py n.val)

end Sys2Proof.Machine
end

