-- ==== Sys2Proof/Machine/IndexMemory.lean ====
section
/-! DEFINITION. The writes of I and the data-memory instructions (spec 43_index_memory). -/
namespace Sys2Proof.Machine

/-- Annn, LD I, nnn (R190). -/
def execLdI (nnn : Addr12) (s : State) : Host.Outcome State Fault Refusal :=
  s.settle (.ok (s.setI (nnn.setWidth 16)).advance)

/-- Fx1E, ADD I, Vx (R191): the sum modulo I_ADD_WRAP; no flag, no fault. -/
def execAddI (x : Reg) (s : State) : Host.Outcome State Fault Refusal :=
  s.settle do
    let i ← s.readI
    let a ← s.readV x
    .ok (s.setI (BitVec.ofNat 16 ((i.toNat + a.toNat) % modulus s.params.iAddWrap))).advance

/-- Fx29, LD F, Vx (R192): the whole byte is multiplied. -/
def execLdF (x : Reg) (s : State) : Host.Outcome State Fault Refusal :=
  s.settle do
    let a ← s.readV x
    .ok (s.setI (BitVec.ofNat 16 (a.toNat * 5))).advance

/-- Fx33, LD B, Vx (R193): the three addresses are checked, then the digits stored. -/
def execLdB (x : Reg) (s : State) : Host.Outcome State Fault Refusal :=
  s.settle do
    let a ← s.readV x
    let _ ← s.readI
    checkRange (checkWrite s.params.fontWritePolicy) (s.ea 0) 3
    .ok (s.writeBytes (s.ea 0) (bcdDigits a)).advance

/-- Fx55, LD [I], Vx (R194): registers are read before the addresses are checked (60 R264); I is not changed. -/
def execLdMemVx (x : Reg) (s : State) : Host.Outcome State Fault Refusal :=
  s.settle do
    let _ ← s.readI
    let bs ← s.readRegs (blockRegs x)
    checkRange (checkWrite s.params.fontWritePolicy) (s.ea 0) (x.val + 1)
    .ok (s.writeBytes (s.ea 0) bs).advance

/-- Fx65, LD Vx, [I] (R195); I is not changed. -/
def execLdVxMem (x : Reg) (s : State) : Host.Outcome State Fault Refusal :=
  s.settle do
    let _ ← s.readI
    checkRange checkRead (s.ea 0) (x.val + 1)
    .ok (s.loadRegs (blockRegs x)).advance

end Sys2Proof.Machine
end

