-- ==== Sys2Proof/Machine/KeypadTimers.lean ====
section
/-! DEFINITION. The key skips, the timer moves and the key wait (spec 45_keypad_timers). -/
namespace Sys2Proof.Machine

/-- Ex9E, SKP Vx (R230). -/
def execSkp (x : Reg) (s : State) : Host.Outcome State Fault Refusal :=
  s.settle do
    let k ← keyIndex (← s.readV x)
    .ok (s.skipIf s.key[k])

/-- ExA1, SKNP Vx (R231). -/
def execSknp (x : Reg) (s : State) : Host.Outcome State Fault Refusal :=
  s.settle do
    let k ← keyIndex (← s.readV x)
    .ok (s.skipIf (!s.key[k]))

/-- Fx07, LD Vx, DT (R232). -/
def execLdVxDt (x : Reg) (s : State) : Host.Outcome State Fault Refusal :=
  s.settle do
    let d ← s.readDT
    .ok (s.setV x d).advance

/-- Fx15, LD DT, Vx (R233). -/
def execLdDtVx (x : Reg) (s : State) : Host.Outcome State Fault Refusal :=
  s.settle do
    let a ← s.readV x
    .ok (s.setDT a).advance

/-- Fx18, LD ST, Vx (R234). -/
def execLdStVx (x : Reg) (s : State) : Host.Outcome State Fault Refusal :=
  s.settle do
    let a ← s.readV x
    .ok (s.setST a).advance

/-- Fx0A, LD Vx, K (R235): the keypad is not read here, and pc moves past the instruction. -/
def execLdVxK (x : Reg) (s : State) : Host.Outcome State Fault Refusal :=
  s.settle (.ok { s with await := true, awaitX := x }.advance)

end Sys2Proof.Machine
end

