-- ==== Sys2Proof/Machine/Ports.lean ====
section
/-! DEFINITION. The ports (spec 10_state R41 to R47): the timer tick, the keypad, the acknowledge, `load`, and the outputs. -/
namespace Sys2Proof.Machine

open Sys2Proof.Config

/-! ### Outputs -/

/-- The code of a cause (60 R260). -/
def FaultCause.code : FaultCause → BitVec 4
  | .fetchOutOfRange => 1
  | .readOutOfRange => 2
  | .writeOutOfRange => 3
  | .stackOverflow => 4
  | .stackUnderflow => 5
  | .keyIndexOutOfRange => 6
  | .fontRegionWrite => 7
  | .loadTooLarge => 8
  | .unwrittenRead => 9

/-- FAULT_CAUSE as the `fault` port shows it: 0 for no fault (10_state R36, R44). -/
def State.faultCode (s : State) : BitVec 4 :=
  match s.fault.cause with
  | none => 0
  | some c => c.code

/-- `fb_read(x, y)`: coordinates wrap (R43). -/
def State.fbRead (s : State) (x y : Nat) : Bool := s.fb[Fin.ofNat 64 x][Fin.ofNat 32 y]

/-- `sound_active`, the combinational value `ST != 0` (R34). Log entry 12. -/
def State.soundActive (s : State) : Bool := s.st != 0

/-! ### Inputs -/

/-- A timer one tick later: "decrement by 1 if >0" (45 R250). -/
def countDown (b : Byte) : Byte := if b.toNat > 0 then BitVec.ofNat 8 (b.toNat - 1) else b

/-- The writes of a tick. A timer at 0 is not written. -/
def State.tickDT (s : State) (d : Byte) : State := if d.toNat > 0 then s.setDT (countDown d) else s

/-- As `tickDT`, for the sound timer. -/
def State.tickST (s : State) (t : Byte) : State := if t.toNat > 0 then s.setST (countDown t) else s

/-- `tick()` (45 R250). Enabled only while MODE is not Faulted (10_state R42). It reads DT and ST, so under
RESET_REGS = Unwritten it faults on one never written (60 R260). Log entry 10. -/
def tick (s : State) : Host.Outcome State Fault Refusal :=
  if s.mode = .faulted then .fault (.tickDisabled s.fault)
  else s.settle do
    let d ← s.readDT
    let t ← s.readST
    .ok ((s.tickDT d).tickST t)

/-- `key_set(index, pressed)`, enabled in every mode (R45). -/
def State.keySet (s : State) (k : Fin 16) (pressed : Bool) : State := { s with key := s.key.set k pressed }

/-- `present_ack`: `DIRTY <- 0` (R46). -/
def State.presentAck (s : State) : State := { s with dirty := false }

/-! ### Reset (70_reset_and_hazards) -/

/-- Bytes from address `a` on, as canonical memory above the font region: what an unlisted address reads as is not
listed. -/
def imageCells (font : List Byte) : Nat → List Byte → Memory
  | _, [] => []
  | a, b :: bs => if b = memBase font a then imageCells font (a + 1) bs else (a, b) :: imageCells font (a + 1) bs

/-- Every register at its reset value (R290), with memory as it was. The parameters are the machine's; the inputs
`rng`, `draws` and `host` are the environment's, and a load does not touch them. Log entries 2, 4, 9. -/
def State.resetRegisters (s : State) : State :=
  { State.resetWith s.params with mem := s.mem, rng := s.rng, draws := s.draws, host := s.host }

/-- `load(bytes)` (R290 to R292): an image that is too long leaves the core Faulted with nothing of it copied and
memory as it was (log entry 11); else memory is the reset contents with the image at 0x200. -/
def State.load (s : State) (bytes : List Byte) : State :=
  if imageFits bytes then { s.resetRegisters with mem := imageCells s.params.font loadAddress bytes }
  else { s.resetRegisters with fault := ⟨some .loadTooLarge, 0, BitVec.ofNat 16 (min bytes.length 0xFFFF)⟩ }

/-! ### Which operation comes next -/

/-- The operation the host performs next, and the state with it taken off the line: `step` when none is lined up
(R47). Log entry 4. -/
def State.nextOp (s : State) : PortOp × State :=
  match s.host with
  | [] => (.step, s)
  | op :: ops => (op, { s with host := ops })

end Sys2Proof.Machine
end

