-- ==== Sys2Proof/Machine/Cycle.lean ====
section
/-! DEFINITION. The fetch-decode-execute cycle (spec 40_cycle) and the effect of each port operation. -/
namespace Sys2Proof.Machine

/-- `execute_one()` (R121): fetch, decode, and the row's rule, or the report of an unrecognised word (R126). -/
def executeOne (s : State) : Host.Outcome State Fault Refusal :=
  match s.fetch with
  | .error f => .next (s.raiseFault f)
  | .ok w =>
    match decodeWord w with
    | some i => exec i s
    | none => .next (s.reportUnrecognized w)

/-- `step()` (R120), by mode. -/
def stepPort (s : State) : Host.Outcome State Fault Refusal :=
  match s.mode with
  | .faulted => .fault (.stepDisabled s.fault)
  | .awaitingKey => .next s.keyPoll
  | .running => executeOne s

/-- One port operation (10_state R47). -/
def act (op : PortOp) (s : State) : Host.Outcome State Fault Refusal :=
  match op with
  | .step => stepPort s
  | .tick => tick s
  | .keySet k pressed => .next (s.keySet k pressed)
  | .presentAck => .next s.presentAck
  | .load bytes => .next (s.load bytes)

/-- `s` ready to fetch and run the word `w`: `w` at `pc`, the high byte first, in Running mode with no port operation
lined up; a `pc` from which no word can be fetched becomes the load address. Log entry 26. -/
def State.placeWord (s : State) (w : Word) : State :=
  let a := if s.pc.toNat ≤ 0xFFE then s.pc.toNat else loadAddress
  { s with pc := BitVec.ofNat 16 a, await := false, fault := ⟨none, 0, 0⟩, host := [] }.writeBytes a (wordBytes w)

end Sys2Proof.Machine
end

