-- ==== Sys2Proof/Machine/Step.lean ====
section
/-! DEFINITION. One step of the machine: the port operation the host performs next (spec 10_state R47); with none lined up it is `step()` (40_cycle R120). -/
namespace Sys2Proof.Machine

/-- One step. -/
def step (s : State) : Host.Outcome State Fault Refusal := act s.nextOp.1 s.nextOp.2

/-- `s` with the table word `w` where the next step fetches (log entry 26). -/
def State.withFetchWord (s : State) (nbits w : Nat) : State := s.placeWord (BitVec.ofNat 16 (w % 2 ^ nbits))

end Sys2Proof.Machine
end

