-- ==== Sys2Proof/Safety.lean ====
section
/-! DEFINITION. The terms claims about the machine use: what an instruction leaves unchanged, when it executes normally, the two ends of a run, and the invariants of a run. -/
namespace Sys2Proof.Machine

/-! ### Words and faults -/

/-- The word numbered `w` stands for the instruction `i`. -/
def DecodesTo (w : Nat) (i : Instr) : Prop := decodeWord (BitVec.ofNat 16 w) = some i

/-- The outcome is that of `raise Fault(c, info)` in a step that began in `s`: the three fault registers written and
nothing else (60 R261, R262). -/
def FaultsWith (s : State) (o : Host.Outcome State Fault Refusal) (c : FaultCause) (info : Nat) : Prop :=
  o = .next { s with fault := ⟨some c, s.pc, BitVec.ofNat 16 info⟩ }

/-! ### Frames -/

/-- `t` is `s` with the registers `upd` names holding the bytes it gives, `pc` at `target`, and all else unchanged,
every byte of memory among it. A register written has its written bit set (60 R263). -/
structure RegsWritten (s t : State) (upd : Reg → Option Byte) (target : Word) : Prop where
  v : ∀ r : Reg, t.v[r] = (upd r).getD s.v[r]
  written : ∀ r : Reg, t.written.v[r] = (s.written.v[r] || (upd r).isSome)
  pc : t.pc = target
  rest : t = { s with v := t.v, written := { s.written with v := t.written.v }, pc := t.pc }
  memory : ∀ a, t.readByte a = s.readByte a

/-- The registers an instruction may write: the destination of each rule, and VF where the rule writes the flag
(10_state R22). LD_Vx_K writes its register at the poll that ends the wait and not when it executes. -/
def mayWriteV : Instr → Reg → Prop
  | .ldImm x _, r | .addImm x _, r | .ldReg x _, r | .orReg x _, r | .andReg x _, r | .xorReg x _, r
  | .rnd x _, r | .ldVxDt x, r => r = x
  | .addReg x _, r | .sub x _, r | .shr x _, r | .subn x _, r | .shl x _, r => r = x ∨ r = 15
  | .drw _ _ _, r => r = 15
  | .ldVxMem x, r => r ≤ x
  | _, _ => False

/-! ### Normal execution -/

/-- Address `a` passes the check of a write (20_memory R67). -/
def WritableAddr (p : Config.Params) (a : Nat) : Prop := a ≤ 0xFFF ∧ (p.fontWritePolicy = .fault → 0x050 ≤ a)

/-- Sprite bit `(i, j)` of an `n`-row sprite at the I of `s` is 1 and its target is pixel `(X, Y)` (44 R213, R215). -/
def SpriteHits (s : State) (px py : Byte) (n : Nat) (X : Fin 64) (Y : Fin 32) : Prop :=
  ∃ i < n, ∃ j < 8, (s.readByte (s.ea i)).getLsbD (7 - j) = true ∧
    X.val = (px.toNat + j) % 64 ∧ Y.val = (py.toNat + i) % 32

/-- A draw of `n` rows executes normally: its registers are readable and every row is in range (44 R211). -/
def DrawEnabled (s : State) (x y : Reg) (n : Fin 16) : Prop :=
  s.readable (.v x) ∧ s.readable (.v y) ∧ (n.val ≠ 0 → s.readable .i) ∧ ∀ i < n.val, s.ea i ≤ 0xFFF

/-- The registers with a written bit that an instruction reads, in the order it reads them (60 R264; log entry 10). -/
def readsOf (p : Config.Params) : Instr → List RegId
  | .seImm x _ | .sneImm x _ | .addImm x _ | .ldF x | .skp x | .sknp x | .ldDtVx x | .ldStVx x => [.v x]
  | .seReg x y | .sneReg x y | .ldReg x y | .orReg x y | .andReg x y | .xorReg x y | .addReg x y | .sub x y
  | .subn x y => [.v x, .v y]
  | .shr x y | .shl x y => if p.shiftSource = .vx then [.v x] else [.v x, .v y]
  | .jpV0 _ => [.v 0]
  | .addI x => [.i, .v x]
  | .drw x y n => if n.val = 0 then [.v x, .v y] else [.v x, .v y, .i]
  | .ldVxDt _ => [.dt]
  | .ldB x => [.v x, .i]
  | .ldMemVx x => .i :: (blockRegs x).map .v
  | .ldVxMem _ => [.i]
  | .cls | .ret | .jp _ | .call _ | .ldImm _ _ | .ldI _ | .rnd _ _ | .ldVxK _ => []

/-! ### The ends of a run (70 R301) -/

/-- (a) faulted. -/
def State.faulted (s : State) : Prop := s.fault.cause ≠ none

/-- (b) parked at `P`: Running at `P`, and the word there jumps to `P`. -/
def State.parkedAt (s : State) (P : Addr12) : Prop :=
  s.mode = .running ∧ s.pc.toNat = P.toNat ∧ P.toNat + 1 ≤ 0xFFF ∧
    (s.readByte P.toNat).toNat * 256 + (s.readByte (P.toNat + 1)).toNat = 0x1000 + P.toNat

/-! ### Invariants of a run -/

/-- Memory is in its canonical form. -/
def State.MemCanonical (s : State) : Prop := Memory.wf s.params.font s.mem

/-- The font region holds FONT, where the policy is that a write to it faults (20_memory R62, R67; 90 C2). -/
def State.FontIntact (s : State) : Prop :=
  s.params.fontWritePolicy = .fault → ∀ a < 0x050, s.readByte a = memBase s.params.font a

/-- The bounds of the spec on the control registers: SP counts entries of a stack of STACK_DEPTH (10_state R30), a
return address is at most 0x1000 and `pc` at most 0x10FE (R29, 40_cycle R122), and `I` at most 0xFFF under the
default wrap (R26). -/
structure State.Bounded (s : State) : Prop where
  stackLength : s.stack.length = s.params.stackDepth
  spBound : s.sp ≤ s.params.stackDepth
  stackBound : ∀ w ∈ s.stack, w.toNat ≤ 0x1000
  pcBound : s.pc.toNat ≤ 0x10FE
  iBound : s.params.iAddWrap = .w4096 → s.i.toNat ≤ 0xFFF

end Sys2Proof.Machine
end

