-- ==== Sys2Proof/Certificates/Slice0/Obligations.lean ====
section
/-! DEFINITION. The statements for the provers, one per obligation of OBLIGATIONS.json. In an instruction's statement `DecodesTo` is its encoding clause. -/

open Sys2Proof Sys2Proof.Machine

/-! ### Encoding (30_encoding) -/

/-- R90 to R96: the bytes of an instruction, whatever follows them, decode to that instruction. -/
def Obligations.DecodeOfEncodeIsIdentity : Prop :=
  ∀ (i : Instr) (rest : List Byte), decode (wordBytes (encode i) ++ rest) = .ok (i, rest)

/-- Every recognised word has one meaning, and no bit of it is dropped. -/
def Obligations.EncodeOfDecodeIsIdentity : Prop :=
  ∀ (w : Word) (i : Instr), decodeWord w = some i → encode i = w

/-- R124: a row matches when `(w & mask) = match`, and at most one row matches any word. The decoder answers an
instruction of the matching row, and nothing exactly when no row matches. R98, from which the spec derives R124, rests
on its tables: log entry 17 for class 8 and the timers. -/
def Obligations.DecoderFollowsOpcodeTable : Prop :=
  opcodeTable.length = 34 ∧
  (opcodeTable.Pairwise fun r q => ∀ w, ¬ (w &&& r.mask = r.pattern ∧ w &&& q.mask = q.pattern)) ∧
  (∀ w i, decodeWord w = some i → rowOf i ∈ opcodeTable ∧ w &&& (rowOf i).mask = (rowOf i).pattern) ∧
  ∀ w, decodeWord w = none ↔ ∀ r ∈ opcodeTable, w &&& r.mask ≠ r.pattern

/-- The table of R97: the unrecognised words, class by class. Rests on the spec's decision D21: log entry 22. The
class-8 row rests on which sub-opcodes exist: log entry 17. -/
def Obligations.UnrecognisedWordsByClass : Prop :=
  ∀ n : Nat, n < 65536 → (decodeWord (BitVec.ofNat 16 n) = none ↔
    (n / 4096 = 0x0 ∧ n ≠ 0x00E0 ∧ n ≠ 0x00EE) ∨
    (n / 4096 = 0x5 ∧ n % 16 ≠ 0) ∨
    (n / 4096 = 0x8 ∧ n % 16 ∈ [0x8, 0x9, 0xA, 0xB, 0xC, 0xD, 0xF]) ∨
    (n / 4096 = 0x9 ∧ n % 16 ≠ 0) ∨
    (n / 4096 = 0xE ∧ n % 256 ∉ [0x9E, 0xA1]) ∨
    (n / 4096 = 0xF ∧ n % 256 ∉ [0x07, 0x0A, 0x15, 0x18, 0x1E, 0x29, 0x33, 0x55, 0x65]))

/-- Words of the worked examples of 41 to 45, one of each format, and what they stand for. The sub-opcode of 8xy7 is
log entry 17's. -/
def Obligations.SampleWordsDecode : Prop :=
  decodeWord 0x00E0 = some .cls ∧ decodeWord 0x00EE = some .ret ∧
  decodeWord 0x1234 = some (.jp 0x234) ∧ decodeWord 0x6A2F = some (.ldImm 10 0x2F) ∧
  decodeWord 0x5120 = some (.seReg 1 2) ∧ decodeWord 0x8127 = some (.subn 1 2) ∧
  decodeWord 0xD122 = some (.drw 1 2 2) ∧ decodeWord 0xE59E = some (.skp 5) ∧
  decodeWord 0xFA33 = some (.ldB 10) ∧ decodeWord 0x5121 = none

/-! ### The cycle (40_cycle) -/

/-- When the host's next operation is `step` and the core is Running, a step runs the instruction the bytes at `pc`
decode to. With no operation lined up the state it runs in is the state itself. Which operation is next is the model's
choice: log entry 4. -/
def Obligations.StepRunsDecodedInstruction : Prop :=
  ∀ (s r : State) (i : Instr), s.nextOp = (.step, r) → r.mode = .running → r.pc.toNat ≤ 0xFFE →
    decode [r.readByte r.pc.toNat, r.readByte (r.pc.toNat + 1)] = .ok (i, []) →
    step s = exec i r ∧ (s.host = [] → r = s)

/-- R126: an unrecognised word is reported and skipped, and nothing else changes. The history is newest first: log
entry 9. -/
def Obligations.UnrecognisedWordIsReportedNoOp : Prop :=
  ∀ (s : State) (w : Word), s.mode = .running → s.pc.toNat ≤ 0xFFE →
    decode [s.readByte s.pc.toNat, s.readByte (s.pc.toNat + 1)] = .error (.unrecognized w) →
    act .step s = .next { s with events := ⟨s.pc, w⟩ :: s.events, pc := s.pc + 2 }

/-- R69: a fetch reads the high byte at `pc` and the low byte at `pc + 1`; an address above 0xFFF faults, and a fetch
that faults executes nothing. -/
def Obligations.FetchIsBigEndianOrFaults : Prop :=
  ∀ s : State, s.mode = .running →
    (s.pc.toNat ≤ 0xFFE → ∃ w, s.fetch = .ok w ∧
      w.toNat = (s.readByte s.pc.toNat).toNat * 256 + (s.readByte (s.pc.toNat + 1)).toNat) ∧
    (s.pc.toNat > 0xFFF → FaultsWith s (act .step s) .fetchOutOfRange s.pc.toNat) ∧
    (s.pc.toNat = 0xFFF → FaultsWith s (act .step s) .fetchOutOfRange 0x1000)

/-- R265: in Faulted mode neither `step` nor `tick` is enabled, `key_set` and `present_ack` act, no operation but
`load` leaves the mode, and a `load` that fits does. The spec's decisions D23 and D31; how the model ends the run is
log entry 8. -/
def Obligations.FaultedModeIsAbsorbing : Prop :=
  ∀ s : State, s.mode = .faulted →
    act .step s = .fault (.stepDisabled s.fault) ∧ act .tick s = .fault (.tickDisabled s.fault) ∧
    (∀ k b, act (.keySet k b) s = .next { s with key := s.key.set k b }) ∧
    act .presentAck s = .next { s with dirty := false } ∧
    (∀ op t, (∀ bytes, op ≠ .load bytes) → act op s = .next t → t.mode = .faulted ∧ t.fault = s.fault) ∧
    ∀ bytes, bytes.length ≤ 3584 → ∃ t, act (.load bytes) s = .next t ∧ t.mode = .running

/-- R240, R241: a step in AwaitingKey mode with no key pressed changes nothing; with one pressed, the least pressed
key goes to the target register and the wait ends, with `pc` unchanged. -/
def Obligations.KeyPollTakesLeastPressedKey : Prop :=
  ∀ s : State, s.mode = .awaitingKey →
    ((∀ k : Fin 16, s.key[k] = false) → act .step s = .next s) ∧
    ∀ k : Fin 16, s.key[k] = true → (∀ j < k, s.key[j] = false) →
      act .step s = .next
        { s with
          v := s.v.set s.awaitX (BitVec.ofNat 8 k.val)
          written := { s.written with v := s.written.v.set s.awaitX true }
          await := false }

/-- The mode machine of R243, and who leaves Faulted (R265). From Running, an instruction enters AwaitingKey exactly
when it is Fx0A, and a step exactly when the word it fetches is Fx0A; either enters Faulted exactly when the fault
registers change, a fetch fault included; an unrecognised word stays in Running. A step in AwaitingKey mode stays
there exactly when no key is pressed, and never faults. The other ports keep the mode, but for a tick that faults, and
only `load` leaves Faulted. The spec derives R243; a fault as a next state is log entry 8; the faults of a tick are
log entry 10. -/
def Obligations.ModesChangeOnlyAsStated : Prop :=
  (∀ (i : Instr) (s t : State), s.mode = .running → exec i s = .next t →
    (t.mode = .awaitingKey ↔ ∃ x, i = .ldVxK x) ∧ (t.mode = .faulted ↔ t.fault ≠ s.fault)) ∧
  (∀ s t : State, s.mode = .running → act .step s = .next t →
    (t.mode = .awaitingKey ↔ ∃ w x, s.fetch = .ok w ∧ decodeWord w = some (.ldVxK x)) ∧
    (t.mode = .faulted ↔ t.fault ≠ s.fault)) ∧
  (∀ s t : State, s.mode = .awaitingKey → act .step s = .next t →
    t.pc = s.pc ∧ (t.mode = .awaitingKey ∨ t.mode = .running) ∧
    (t.mode = .awaitingKey ↔ ∀ k : Fin 16, s.key[k] = false)) ∧
  (∀ (op : PortOp) (s t : State), op ≠ .step → (∀ bytes, op ≠ .load bytes) → act op s = .next t →
    t.mode = s.mode ∨ op = .tick ∧ t.mode = .faulted) ∧
  ∀ (op : PortOp) (s t : State), s.mode = .faulted → act op s = .next t → t.mode ≠ .faulted →
    ∃ bytes, op = .load bytes

/-- Every instruction answers a next state in every state: a fatal condition is one, in Faulted mode (R261). A fault
as a next state is the model's choice: log entry 8. -/
def Obligations.ExecAlwaysAnswersNextState : Prop :=
  ∀ (i : Instr) (s : State), ∃ t, exec i s = .next t

/-! ### Control flow (41_control_flow) -/

/-- R140. -/
def Obligations.JumpSetsPc : Prop :=
  ∀ (nnn : Addr12) (s : State), DecodesTo (0x1000 + nnn.toNat) (.jp nnn) ∧
    exec (.jp nnn) s = .next { s with pc := BitVec.ofNat 16 nnn.toNat }

/-- R141. -/
def Obligations.CallPushesNextAddress : Prop :=
  ∀ (nnn : Addr12) (s : State), DecodesTo (0x2000 + nnn.toNat) (.call nnn) ∧
    (s.sp ≠ s.params.stackDepth → exec (.call nnn) s = .next
      { s with stack := s.stack.set s.sp (s.pc + 2), sp := s.sp + 1, pc := BitVec.ofNat 16 nnn.toNat }) ∧
    (s.sp = s.params.stackDepth → FaultsWith s (exec (.call nnn) s) .stackOverflow (s.pc + 2).toNat)

/-- R142. -/
def Obligations.ReturnPopsAddress : Prop :=
  ∀ s : State, DecodesTo 0x00EE .ret ∧
    (∀ a, s.sp ≠ 0 → s.stack[s.sp - 1]? = some a → exec .ret s = .next { s with sp := s.sp - 1, pc := a }) ∧
    (s.sp = 0 → FaultsWith s (exec .ret s) .stackUnderflow 0)

/-- "CALL addr then RETURN restores pc to the instruction immediately after the original CALL": from any state that
holds the stack the call left. The sentence of 41_control_flow R142 and of the source's example S7; states with SP
above the stack are shut out (log entry 3). -/
def Obligations.ReturnUndoesCall : Prop :=
  ∀ (nnn : Addr12) (s : State), s.sp < s.params.stackDepth → s.stack.length = s.params.stackDepth →
    ∃ t, exec (.call nnn) s = .next t ∧ ∀ m : State, m.sp = t.sp → m.stack = t.stack →
      ∃ u, exec .ret m = .next u ∧ u.pc = s.pc + 2 ∧ u.sp = s.sp

/-- R143, R144. -/
def Obligations.ImmediateSkips : Prop :=
  ∀ (x : Reg) (kk : Byte) (s : State),
    DecodesTo (0x3000 + x.val * 256 + kk.toNat) (.seImm x kk) ∧
    DecodesTo (0x4000 + x.val * 256 + kk.toNat) (.sneImm x kk) ∧
    (s.readable (.v x) →
      exec (.seImm x kk) s = .next { s with pc := if s.v[x] = kk then s.pc + 4 else s.pc + 2 } ∧
      exec (.sneImm x kk) s = .next { s with pc := if s.v[x] ≠ kk then s.pc + 4 else s.pc + 2 })

/-- R145, R146. -/
def Obligations.RegisterSkips : Prop :=
  ∀ (x y : Reg) (s : State),
    DecodesTo (0x5000 + x.val * 256 + y.val * 16) (.seReg x y) ∧
    DecodesTo (0x9000 + x.val * 256 + y.val * 16) (.sneReg x y) ∧
    (s.readable (.v x) → s.readable (.v y) →
      exec (.seReg x y) s = .next { s with pc := if s.v[x] = s.v[y] then s.pc + 4 else s.pc + 2 } ∧
      exec (.sneReg x y) s = .next { s with pc := if s.v[x] ≠ s.v[y] then s.pc + 4 else s.pc + 2 })

/-- R147: the sum with V0, neither wrapped nor masked. That nothing masks the sum is the spec's decision D3: log entry
18. -/
def Obligations.IndexedJumpAddsV0 : Prop :=
  ∀ (nnn : Addr12) (s : State), DecodesTo (0xB000 + nnn.toNat) (.jpV0 nnn) ∧
    (s.readable (.v 0) → ∃ t, exec (.jpV0 nnn) s = .next t ∧
      t.pc.toNat = nnn.toNat + s.v[(0 : Reg)].toNat ∧ t = { s with pc := t.pc })

/-! ### Registers and ALU (42_register_alu) -/

/-- R160. -/
def Obligations.LoadImmediate : Prop :=
  ∀ (x : Reg) (kk : Byte) (s : State), DecodesTo (0x6000 + x.val * 256 + kk.toNat) (.ldImm x kk) ∧
    ∃ t, exec (.ldImm x kk) s = .next t ∧
      RegsWritten s t (fun r => if r = x then some kk else none) (s.pc + 2)

/-- R161: the sum modulo 256, VF untouched unless it is the destination. -/
def Obligations.AddImmediateSetsNoFlag : Prop :=
  ∀ (x : Reg) (kk : Byte) (s : State), DecodesTo (0x7000 + x.val * 256 + kk.toNat) (.addImm x kk) ∧
    (s.readable (.v x) → ∃ t, exec (.addImm x kk) s = .next t ∧
      RegsWritten s t
        (fun r => if r = x then some (BitVec.ofNat 8 ((s.v[x].toNat + kk.toNat) % 256)) else none) (s.pc + 2))

/-- R163 to R166: assign, OR, AND and XOR write Vx and, unless x = F, leave VF. That VF stays is the spec's decision
D16: log entry 20. The words 8xy1 to 8xy3 are log entry 17's. -/
def Obligations.AssignAndLogicSetNoFlag : Prop :=
  ∀ (x y : Reg) (s : State),
    DecodesTo (0x8000 + x.val * 256 + y.val * 16) (.ldReg x y) ∧
    DecodesTo (0x8001 + x.val * 256 + y.val * 16) (.orReg x y) ∧
    DecodesTo (0x8002 + x.val * 256 + y.val * 16) (.andReg x y) ∧
    DecodesTo (0x8003 + x.val * 256 + y.val * 16) (.xorReg x y) ∧
    (s.readable (.v x) → s.readable (.v y) →
      ∀ op : Instr × Byte, op ∈ [(Instr.ldReg x y, s.v[y]), (.orReg x y, s.v[x] ||| s.v[y]),
          (.andReg x y, s.v[x] &&& s.v[y]), (.xorReg x y, s.v[x] ^^^ s.v[y])] →
        ∃ t, exec op.1 s = .next t ∧ RegsWritten s t (fun r => if r = x then some op.2 else none) (s.pc + 2))

/-- R167: the sum modulo 256, then VF the carry out of bit 7; with x = F the carry is what is left. That the flag
comes last is the spec's decision D15: log entry 20. The word 8xy4 is log entry 17's. -/
def Obligations.AddRegisterSetsCarry : Prop :=
  ∀ (x y : Reg) (s : State), DecodesTo (0x8004 + x.val * 256 + y.val * 16) (.addReg x y) ∧
    (s.readable (.v x) → s.readable (.v y) → ∃ t, exec (.addReg x y) s = .next t ∧
      RegsWritten s t
        (fun r =>
          if r = 15 then some (if s.v[x].toNat + s.v[y].toNat > 255 then 1 else 0)
          else if r = x then some (BitVec.ofNat 8 ((s.v[x].toNat + s.v[y].toNat) % 256)) else none)
        (s.pc + 2))

/-- R168, R170: the difference modulo 256, then VF the strict comparison; equal operands give 0. That the flag comes
last is the spec's decision D15: log entry 20. The words 8xy5 and 8xy7 are log entry 17's. -/
def Obligations.SubtractSetsStrictNotBorrow : Prop :=
  ∀ (x y : Reg) (s : State),
    DecodesTo (0x8005 + x.val * 256 + y.val * 16) (.sub x y) ∧
    DecodesTo (0x8007 + x.val * 256 + y.val * 16) (.subn x y) ∧
    (s.readable (.v x) → s.readable (.v y) →
      (∃ t, exec (.sub x y) s = .next t ∧ RegsWritten s t
        (fun r =>
          if r = 15 then some (if s.v[x].toNat > s.v[y].toNat then 1 else 0)
          else if r = x then some (BitVec.ofNat 8 ((256 + s.v[x].toNat - s.v[y].toNat) % 256)) else none)
        (s.pc + 2)) ∧
      (∃ t, exec (.subn x y) s = .next t ∧ RegsWritten s t
        (fun r =>
          if r = 15 then some (if s.v[y].toNat > s.v[x].toNat then 1 else 0)
          else if r = x then some (BitVec.ofNat 8 ((256 + s.v[y].toNat - s.v[x].toNat) % 256)) else none)
        (s.pc + 2)))

/-- R169, R171: the source per SHIFT_SOURCE shifted by one, then VF the bit shifted out. For both values of
SHIFT_SOURCE (decision D14, log entry 16); the flag comes last by decision D15 (log entry 20). That Vy need not be
readable under SHIFT_SOURCE = Vx is log entry 10; the words 8xy6 and 8xyE are log entry 17's. -/
def Obligations.ShiftsSetShiftedOutBit : Prop :=
  ∀ (x y : Reg) (s : State) (src : Byte),
    DecodesTo (0x8006 + x.val * 256 + y.val * 16) (.shr x y) ∧
    DecodesTo (0x800E + x.val * 256 + y.val * 16) (.shl x y) ∧
    (s.readable (.v x) → (s.params.shiftSource = .vx → src = s.v[x]) →
      (s.params.shiftSource = .vy → s.readable (.v y) ∧ src = s.v[y]) →
      (∃ t, exec (.shr x y) s = .next t ∧ RegsWritten s t
        (fun r =>
          if r = 15 then some (BitVec.ofNat 8 (src.toNat % 2))
          else if r = x then some (BitVec.ofNat 8 (src.toNat / 2)) else none)
        (s.pc + 2)) ∧
      (∃ t, exec (.shl x y) s = .next t ∧ RegsWritten s t
        (fun r =>
          if r = 15 then some (BitVec.ofNat 8 (src.toNat / 128))
          else if r = x then some (BitVec.ofNat 8 (src.toNat * 2 % 256)) else none)
        (s.pc + 2)))

/-- R182: Vx is kk masked by the byte presented at `rng`, which is consumed; with none presented it is kk masked by
some byte of which nothing is claimed. The form of the free byte is the model's choice: log entry 2. -/
def Obligations.RandomByteIsMaskedInput : Prop :=
  ∀ (x : Reg) (kk : Byte) (s : State), DecodesTo (0xC000 + x.val * 256 + kk.toNat) (.rnd x kk) ∧
    (∀ r rs, s.rng = r :: rs → ∃ t, exec (.rnd x kk) s = .next t ∧
      RegsWritten { s with rng := rs } t (fun k => if k = x then some (kk &&& r) else none) (s.pc + 2)) ∧
    (s.rng = [] → ∃ t r, exec (.rnd x kk) s = .next t ∧
      RegsWritten { s with draws := s.draws + 1 } t (fun k => if k = x then some (kk &&& r) else none) (s.pc + 2))

/-! ### I and data memory (43_index_memory) -/

/-- R190, R192: I is nnn, or five times the whole of Vx. That Fx29 takes the whole byte is the spec's decision D20:
log entry 21. -/
def Obligations.LoadIndexForms : Prop :=
  ∀ (nnn : Addr12) (x : Reg) (s : State),
    DecodesTo (0xA000 + nnn.toNat) (.ldI nnn) ∧ DecodesTo (0xF029 + x.val * 256) (.ldF x) ∧
    exec (.ldI nnn) s = .next
      { s with i := BitVec.ofNat 16 nnn.toNat, written := { s.written with i := true }, pc := s.pc + 2 } ∧
    (s.readable (.v x) → exec (.ldF x) s = .next
      { s with i := BitVec.ofNat 16 (s.v[x].toNat * 5), written := { s.written with i := true }, pc := s.pc + 2 })

/-- R191: I + Vx modulo I_ADD_WRAP; VF is not written. For both values of I_ADD_WRAP (decision D5, log entry 15). -/
def Obligations.AddIndexWraps : Prop :=
  ∀ (x : Reg) (s : State), DecodesTo (0xF01E + x.val * 256) (.addI x) ∧
    (s.readable .i → s.readable (.v x) → ∃ t, exec (.addI x) s = .next t ∧
      t = { s with i := t.i, written := { s.written with i := true }, pc := s.pc + 2 } ∧
      (s.params.iAddWrap = .w4096 → t.i.toNat = (s.i.toNat + s.v[x].toNat) % 4096) ∧
      (s.params.iAddWrap = .w65536 → t.i.toNat = (s.i.toNat + s.v[x].toNat) % 65536))

/-- R193: the three digits at I, I+1, I+2, every other byte as before; a fault at the first of the three addresses
that is out of range or in a protected font region, with nothing written. -/
def Obligations.DecimalDigitsStored : Prop :=
  ∀ (x : Reg) (s : State), DecodesTo (0xF033 + x.val * 256) (.ldB x) ∧
    (s.readable (.v x) → s.readable .i →
      ((∀ k < 3, WritableAddr s.params (s.ea k)) → ∃ t, exec (.ldB x) s = .next t ∧
        t = { s with mem := t.mem, pc := s.pc + 2 } ∧
        (t.readByte (s.ea 0)).toNat = s.v[x].toNat / 100 ∧
        (t.readByte (s.ea 1)).toNat = s.v[x].toNat / 10 % 10 ∧
        (t.readByte (s.ea 2)).toNat = s.v[x].toNat % 10 ∧
        ∀ a, (∀ k < 3, a ≠ s.ea k) → t.readByte a = s.readByte a) ∧
      ∀ k < 3, (∀ j < k, WritableAddr s.params (s.ea j)) →
        (s.ea k > 0xFFF → FaultsWith s (exec (.ldB x) s) .writeOutOfRange (s.ea k)) ∧
        (s.ea k ≤ 0x04F → s.params.fontWritePolicy = .fault →
          FaultsWith s (exec (.ldB x) s) .fontRegionWrite (s.ea k)))

/-- R194: Vk at I + k for every k up to x, every other byte and I as before; a fault at the first address that is out
of range or in a protected font region, with nothing written. That I stays is the spec's decision D18: log entry 21.
-/
def Obligations.BlockStoreWritesRegisters : Prop :=
  ∀ (x : Reg) (s : State), DecodesTo (0xF055 + x.val * 256) (.ldMemVx x) ∧
    (s.readable .i → (∀ k ≤ x, s.readable (.v k)) →
      ((∀ k ≤ x, WritableAddr s.params (s.ea k.val)) → ∃ t, exec (.ldMemVx x) s = .next t ∧
        t = { s with mem := t.mem, pc := s.pc + 2 } ∧
        (∀ k : Reg, k ≤ x → t.readByte (s.ea k.val) = s.v[k]) ∧
        ∀ a, (∀ k : Reg, k ≤ x → a ≠ s.ea k.val) → t.readByte a = s.readByte a) ∧
      ∀ k : Reg, k ≤ x → (∀ j : Reg, j < k → WritableAddr s.params (s.ea j.val)) →
        (s.ea k.val > 0xFFF → FaultsWith s (exec (.ldMemVx x) s) .writeOutOfRange (s.ea k.val)) ∧
        (s.ea k.val ≤ 0x04F → s.params.fontWritePolicy = .fault →
          FaultsWith s (exec (.ldMemVx x) s) .fontRegionWrite (s.ea k.val)))

/-- R195: Vk from I + k for every k up to x, with I and memory as before; a fault at the first address out of range,
with nothing loaded. That I stays is the spec's decision D18: log entry 21. -/
def Obligations.BlockLoadReadsRegisters : Prop :=
  ∀ (x : Reg) (s : State), DecodesTo (0xF065 + x.val * 256) (.ldVxMem x) ∧
    (s.readable .i →
      (s.ea x.val ≤ 0xFFF → ∃ t, exec (.ldVxMem x) s = .next t ∧
        RegsWritten s t (fun r => if r ≤ x then some (s.readByte (s.ea r.val)) else none) (s.pc + 2)) ∧
      ∀ k : Reg, k ≤ x → (∀ j : Reg, j < k → s.ea j.val ≤ 0xFFF) → s.ea k.val > 0xFFF →
        FaultsWith s (exec (.ldVxMem x) s) .readOutOfRange (s.ea k.val))

/-- A block store at the address of the next instruction is seen by the next fetch (20_memory R76). The spec's
decision D35: log entry 25. -/
def Obligations.StoreIsSeenByNextFetch : Prop :=
  ∀ (x : Reg) (s : State), 1 ≤ x.val → s.readable .i → (∀ k ≤ x, s.readable (.v k)) →
    (∀ k ≤ x, WritableAddr s.params (s.ea k.val)) → s.i = s.pc + 2 →
    ∃ t w, exec (.ldMemVx x) s = .next t ∧ t.fetch = .ok w ∧
      w.toNat = s.v[(0 : Reg)].toNat * 256 + s.v[(1 : Reg)].toNat

/-! ### Display (44_display) -/

/-- R210: every pixel 0 and DIRTY 1, whatever they were. -/
def Obligations.ClearBlanksAndMarksDirty : Prop :=
  ∀ s : State, DecodesTo 0x00E0 .cls ∧ ∃ t, exec .cls s = .next t ∧
    (∀ X Y : Nat, t.fbRead X Y = false) ∧ t = { s with fb := t.fb, dirty := true, pc := s.pc + 2 }

/-- R211 to R215: each pixel a sprite bit hits is flipped and no other; VF is 1 exactly when one of them was 1; DIRTY
is set exactly when a row byte is not 0; a fault at the first row out of range, with nothing drawn. That Dxy0
completes with I never written is log entry 10. -/
def Obligations.DrawXorsSpriteAndReportsCollision : Prop :=
  ∀ (x y : Reg) (n : Fin 16) (s : State), DecodesTo (0xD000 + x.val * 256 + y.val * 16 + n.val) (.drw x y n) ∧
    (DrawEnabled s x y n → ∃ t flag, exec (.drw x y n) s = .next t ∧
      (∀ X Y, t.fb[X][Y] = true ↔ (s.fb[X][Y] = true ↔ ¬ SpriteHits s s.v[x] s.v[y] n.val X Y)) ∧
      (flag = 1 ∧ (∃ X Y, s.fb[X][Y] = true ∧ SpriteHits s s.v[x] s.v[y] n.val X Y) ∨
        flag = 0 ∧ ¬ ∃ X Y, s.fb[X][Y] = true ∧ SpriteHits s s.v[x] s.v[y] n.val X Y) ∧
      (t.dirty = true ↔ s.dirty = true ∨ ∃ i < n.val, s.readByte (s.ea i) ≠ 0) ∧
      RegsWritten { s with fb := t.fb, dirty := t.dirty } t (fun r => if r = 15 then some flag else none)
        (s.pc + 2)) ∧
    (s.readable (.v x) → s.readable (.v y) → s.readable .i →
      ∀ i < n.val, (∀ j < i, s.ea j ≤ 0xFFF) → s.ea i > 0xFFF →
        FaultsWith s (exec (.drw x y n) s) .readOutOfRange (s.ea i))

/-- R218: drawing the same rows at the same place twice restores every pixel, and the second VF is 1 exactly when the
first draw turned a pixel from 0 to 1; where the pixels hit were all 0, exactly when a row byte is not 0. `m` is any
state between the draws that differs only in what neither draw depends on. The spec derives R218 from R213 and R216.
Its case n = 0 with I never written is log entry 10's. -/
def Obligations.DrawTwiceRestoresDisplay : Prop :=
  ∀ (x y : Reg) (n : Fin 16) (s t m u : State), DrawEnabled s x y n → DrawEnabled m x y n →
    exec (.drw x y n) s = .next t → exec (.drw x y n) m = .next u →
    m.fb = t.fb → m.v[x] = s.v[x] → m.v[y] = s.v[y] → m.i = s.i →
    (∀ i < n.val, m.readByte (s.ea i) = s.readByte (s.ea i)) →
    u.fb = s.fb ∧
    (u.v[(15 : Reg)] = 1 ↔ ∃ (X : Fin 64) (Y : Fin 32), s.fb[X][Y] = false ∧ t.fb[X][Y] = true) ∧
    ((∀ X Y, SpriteHits s s.v[x] s.v[y] n.val X Y → s.fb[X][Y] = false) →
      (u.v[(15 : Reg)] = 1 ↔ ∃ i < n.val, s.readByte (s.ea i) ≠ 0))

/-- R217: a draw of no rows writes VF = 0 and changes no pixel and not DIRTY, whatever I is. The spec's decision D26
(log entry 21); that I is not read is log entry 10. -/
def Obligations.DrawOfNoRowsOnlyClearsFlag : Prop :=
  ∀ (x y : Reg) (s : State), s.readable (.v x) → s.readable (.v y) →
    ∃ t, exec (.drw x y 0) s = .next t ∧ RegsWritten s t (fun r => if r = 15 then some 0 else none) (s.pc + 2)

/-! ### Keypad and timers (45_keypad_timers) -/

/-- R230, R231. That an index above 15 faults is the spec's decision D19: log entry 21. -/
def Obligations.KeySkips : Prop :=
  ∀ (x : Reg) (s : State),
    DecodesTo (0xE09E + x.val * 256) (.skp x) ∧ DecodesTo (0xE0A1 + x.val * 256) (.sknp x) ∧
    (s.readable (.v x) →
      (∀ k : Fin 16, s.v[x].toNat = k.val →
        exec (.skp x) s = .next { s with pc := if s.key[k] = true then s.pc + 4 else s.pc + 2 } ∧
        exec (.sknp x) s = .next { s with pc := if s.key[k] = false then s.pc + 4 else s.pc + 2 }) ∧
      (s.v[x].toNat > 0xF →
        FaultsWith s (exec (.skp x) s) .keyIndexOutOfRange s.v[x].toNat ∧
        FaultsWith s (exec (.sknp x) s) .keyIndexOutOfRange s.v[x].toNat))

/-- R232, R233, R234: DT to Vx, Vx to DT, Vx to ST. Which word is which is the spec's decision D17: log entry 17. -/
def Obligations.TimerMoves : Prop :=
  ∀ (x : Reg) (s : State),
    DecodesTo (0xF007 + x.val * 256) (.ldVxDt x) ∧ DecodesTo (0xF015 + x.val * 256) (.ldDtVx x) ∧
    DecodesTo (0xF018 + x.val * 256) (.ldStVx x) ∧
    (s.readable .dt → ∃ t, exec (.ldVxDt x) s = .next t ∧
      RegsWritten s t (fun r => if r = x then some s.dt else none) (s.pc + 2)) ∧
    (s.readable (.v x) →
      exec (.ldDtVx x) s = .next { s with dt := s.v[x], written := { s.written with dt := true }, pc := s.pc + 2 } ∧
      exec (.ldStVx x) s = .next { s with st := s.v[x], written := { s.written with st := true }, pc := s.pc + 2 })

/-- R235: the wait is entered, `pc` moves past the instruction, and neither the keypad nor Vx is touched. -/
def Obligations.KeyWaitEntered : Prop :=
  ∀ (x : Reg) (s : State), DecodesTo (0xF00A + x.val * 256) (.ldVxK x) ∧
    exec (.ldVxK x) s = .next { s with await := true, awaitX := x, pc := s.pc + 2 }

/-- R250: each non-zero timer goes down by one, a zero timer stays, and nothing else changes. The premises on the
written bits are log entry 10's. -/
def Obligations.TickCountsDownToZero : Prop :=
  ∀ s : State, s.mode ≠ .faulted → s.readable .dt → s.readable .st →
    ∃ t, act .tick s = .next t ∧ t.dt.toNat = s.dt.toNat - 1 ∧ t.st.toNat = s.st.toNat - 1 ∧
      t.written.v = s.written.v ∧ t.written.i = s.written.i ∧
      t = { s with dt := t.dt, st := t.st, written := t.written }

/-! ### Ports and reset (10_state, 70_reset_and_hazards) -/

/-- R45, R46: `key_set` writes one key and `present_ack` clears DIRTY, in every mode. The four-bit index is the spec's
decision D29: log entry 25. -/
def Obligations.KeySetAndPresentAck : Prop :=
  ∀ (s : State) (k : Fin 16) (b : Bool),
    act (.keySet k b) s = .next { s with key := s.key.set k b } ∧ act .presentAck s = .next { s with dirty := false }

/-- R34, R37, R43, R44, and the codes of R260: MODE, the fault code, the sound output and the pixel query are
functions of the state; the query wraps. The codes are the spec's decision D23 (log entry 19), the wrap its decision
D30 (log entry 25); `sound_active` ignores the written bit (log entry 12). -/
def Obligations.ModeAndOutputsFollowState : Prop :=
  ∀ s : State,
    (s.mode = .faulted ↔ s.fault.cause ≠ none) ∧
    (s.mode = .awaitingKey ↔ s.fault.cause = none ∧ s.await = true) ∧
    (s.mode = .running ↔ s.fault.cause = none ∧ s.await = false) ∧
    (s.faultCode = 0 ↔ s.fault.cause = none) ∧
    (s.faultCode = 1 ↔ s.fault.cause = some .fetchOutOfRange) ∧
    (s.faultCode = 2 ↔ s.fault.cause = some .readOutOfRange) ∧
    (s.faultCode = 3 ↔ s.fault.cause = some .writeOutOfRange) ∧
    (s.faultCode = 4 ↔ s.fault.cause = some .stackOverflow) ∧
    (s.faultCode = 5 ↔ s.fault.cause = some .stackUnderflow) ∧
    (s.faultCode = 6 ↔ s.fault.cause = some .keyIndexOutOfRange) ∧
    (s.faultCode = 7 ↔ s.fault.cause = some .fontRegionWrite) ∧
    (s.faultCode = 8 ↔ s.fault.cause = some .loadTooLarge) ∧
    (s.faultCode = 9 ↔ s.fault.cause = some .unwrittenRead) ∧
    (s.soundActive = true ↔ s.st.toNat > 0) ∧
    ∀ (X : Fin 64) (Y : Fin 32) (j k : Nat), s.fbRead (X.val + 64 * j) (Y.val + 32 * k) = s.fb[X][Y]

/-- R290, the load that fits: every register at its reset value, the font and the image in memory and 0x00 elsewhere,
and the parameters as they were. The register values are the spec's decision D10: log entry 5. -/
def Obligations.LoadResetsTheCore : Prop :=
  ∀ (s : State) (bytes : List Byte), bytes.length ≤ 3584 → ∃ t, act (.load bytes) s = .next t ∧
    (∀ a < 0x1000, t.readByte a =
      if a < 0x050 then s.params.font.getD a 0x00
      else if 0x200 ≤ a then bytes.getD (a - 0x200) 0x00 else 0x00) ∧
    t.pc = 0x200 ∧ (∀ r : Reg, t.v[r] = 0x00) ∧ t.i = 0x0000 ∧ t.dt = 0x00 ∧ t.st = 0x00 ∧ t.sp = 0 ∧
    t.stack = List.replicate s.params.stackDepth 0x0000 ∧ t.await = false ∧ t.awaitX = 0 ∧
    (∀ (X : Fin 64) (Y : Fin 32), t.fb[X][Y] = false) ∧ t.dirty = false ∧ (∀ k : Fin 16, t.key[k] = false) ∧
    t.fault = ⟨none, 0x0000, 0x0000⟩ ∧ t.mode = .running ∧ t.params = s.params ∧
    ∀ r, t.written.get r = decide (s.params.resetRegs = .zero)

/-- R292 and the first lines of R290: a load of more than 3584 bytes leaves the core Faulted with LOAD_TOO_LARGE, with
nothing of it copied and every register at its reset value, and no step is enabled (R265). The register values are the
spec's decision D10 (log entry 5); that memory stays, and that the registers reset, is log entry 11; how the model
answers a step there is log entry 8. -/
def Obligations.OversizedLoadFaults : Prop :=
  ∀ (s : State) (bytes : List Byte), bytes.length > 3584 → ∃ t, act (.load bytes) s = .next t ∧
    t.mode = .faulted ∧ t.fault.cause = some .loadTooLarge ∧ t.faultCode = 8 ∧ t.fault.pc = 0x0000 ∧
    t.fault.addr.toNat = min bytes.length 0xFFFF ∧ (∀ a, t.readByte a = s.readByte a) ∧ t.pc = 0x200 ∧
    (∀ r : Reg, t.v[r] = 0x00) ∧ t.i = 0x0000 ∧ t.dt = 0x00 ∧ t.st = 0x00 ∧ t.sp = 0 ∧
    t.stack = List.replicate s.params.stackDepth 0x0000 ∧ t.await = false ∧ t.awaitX = 0 ∧
    (∀ (X : Fin 64) (Y : Fin 32), t.fb[X][Y] = false) ∧ t.dirty = false ∧ (∀ k : Fin 16, t.key[k] = false) ∧
    t.params = s.params ∧ (∀ r, t.written.get r = decide (s.params.resetRegs = .zero)) ∧
    act .step t = .fault (.stepDisabled t.fault)

/-- R51, R293: after reset memory is zero but for the font, and the first step runs the word at 0x200 in Running mode.
R293 states the mode; the values of AWAIT and the fault registers that give it are the spec's decision D10: log entry
5. -/
def Obligations.ResetState : Prop :=
  (∀ a, State.reset.readByte a = if a < 0x050 then State.reset.params.font.getD a 0x00 else 0x00) ∧
  State.reset.pc = 0x200 ∧ State.reset.mode = .running ∧
  State.reset.fetch = .ok (joinWord (State.reset.readByte 0x200) (State.reset.readByte 0x201)) ∧
  act .step State.reset = executeOne State.reset

/-! ### Invariants of every step -/

/-- Every step keeps memory in its canonical form. The form is the model's own: log entry 7. -/
def Obligations.StepKeepsMemoryCanonical : Prop :=
  ∀ s t : State, s.MemCanonical → step s = .next t → t.MemCanonical

/-- Every step, a `load` among them, leaves the font region as FONT where the policy is that writes to it fault. -/
def Obligations.StepKeepsFontIntact : Prop :=
  ∀ s t : State, s.FontIntact → step s = .next t → t.FontIntact

/-- Every step keeps the bounds of R26, R29 and R30 on I, pc, the stack and SP. R26 and R29 are inferences of the
spec; the stack as a list is log entry 3's. -/
def Obligations.StepKeepsRegistersBounded : Prop :=
  ∀ s t : State, s.Bounded → step s = .next t → t.Bounded

/-- The three invariants hold at reset. -/
def Obligations.ResetMeetsInvariants : Prop :=
  State.reset.MemCanonical ∧ State.reset.FontIntact ∧ State.reset.Bounded

/-- No step changes a parameter (R48). The parameters as a field are the model's choice: log entry 1. -/
def Obligations.StepKeepsParameters : Prop :=
  ∀ s t : State, step s = .next t → t.params = s.params

/-! ### Rules of the whole machine -/

/-- R262: an instruction that faults writes the fault registers and nothing else, and FAULT_PC is the address of the
instruction. The spec's decisions D7 and D23: log entries 8 and 19. -/
def Obligations.FaultsArePrecise : Prop :=
  ∀ (i : Instr) (s t : State), exec i s = .next t → t.fault ≠ s.fault →
    ∃ cause addr, t = { s with fault := ⟨some cause, s.pc, addr⟩ }

/-- R22: only the named instructions write a general register, and only their destination and VF. R22 is an inference
of the spec. -/
def Obligations.GeneralRegisterWriters : Prop :=
  ∀ (i : Instr) (s t : State) (r : Reg), exec i s = .next t → t.v[r] ≠ s.v[r] → mayWriteV i r

/-- Every other piece of state is written only by the instructions the spec names for it: I (R25), the stack and SP
(R32), the timers (R33, R251), AWAIT (R35), the pixels and DIRTY (R38, R39), memory (R61), and the keypad by none
(R253). R61 is an inference of the spec. `rng` and `draws`, `events`, and `host` are the model's own fields: log
entries 2, 9 and 4. -/
def Obligations.OtherStateWriters : Prop :=
  ∀ (i : Instr) (s t : State), exec i s = .next t →
    (t.i ≠ s.i → (∃ nnn, i = .ldI nnn) ∨ ∃ x, i = .addI x ∨ i = .ldF x) ∧
    (t.sp ≠ s.sp → i = .ret ∨ ∃ nnn, i = .call nnn) ∧
    (t.stack ≠ s.stack → ∃ nnn, i = .call nnn) ∧
    (t.dt ≠ s.dt → ∃ x, i = .ldDtVx x) ∧
    (t.st ≠ s.st → ∃ x, i = .ldStVx x) ∧
    (t.await ≠ s.await ∨ t.awaitX ≠ s.awaitX → ∃ x, i = .ldVxK x) ∧
    (t.fb ≠ s.fb ∨ t.dirty ≠ s.dirty → i = .cls ∨ ∃ x y n, i = .drw x y n) ∧
    ((∃ a, t.readByte a ≠ s.readByte a) → ∃ x, i = .ldB x ∨ i = .ldMemVx x) ∧
    (t.rng ≠ s.rng ∨ t.draws ≠ s.draws → ∃ x kk, i = .rnd x kk) ∧
    t.key = s.key ∧ t.events = s.events ∧ t.host = s.host

/-- R263, and the ids of R260: under RESET_REGS = Zero no register read faults; else the first unwritten register an
instruction reads faults with its id, before anything else does, and a tick faults on an unwritten DT, then on an
unwritten ST. Which reads count, and in which order, is log entry 10. -/
def Obligations.UnwrittenReadFaults : Prop :=
  (∀ (s : State) (r : RegId), s.params.resetRegs = .zero → s.readable r) ∧
  (∀ (s : State) (r : RegId), s.params.resetRegs = .unwritten → (s.readable r ↔ s.written.get r = true)) ∧
  ((∀ x : Reg, (RegId.v x).id = x.val) ∧ RegId.i.id = 16 ∧ RegId.dt.id = 17 ∧ RegId.st.id = 18) ∧
  (∀ (i : Instr) (s : State) (before after : List RegId) (r : RegId),
    readsOf s.params i = before ++ r :: after → (∀ q ∈ before, s.readable q) → ¬ s.readable r →
    FaultsWith s (exec i s) .unwrittenRead r.id) ∧
  ∀ s : State, s.mode ≠ .faulted →
    (¬ s.readable .dt → FaultsWith s (act .tick s) .unwrittenRead 17) ∧
    (s.readable .dt → ¬ s.readable .st → FaultsWith s (act .tick s) .unwrittenRead 18)

/-- R301 (b): a core parked at P stays as it is at every step, for as long as the host only steps. The spec's decision
D37; that nothing else is lined up is log entry 4's. -/
def Obligations.ParkedCoreStaysParked : Prop :=
  ∀ (s : State) (P : Addr12) (k : Nat), s.parkedAt P → s.host = [] → core.run k s = .next s
end

