-- ==== Sys2Proof/Laws/State.lean ====
section
/-! SUPPORT. One lemma per field per update of State, each true by definition, so that no later proof unfolds a record update. -/
namespace Sys2Proof.Machine

variable (s : State)

/-! ### `setV` -/

@[simp] theorem State.setV_v (x : Reg) (b : Byte) : (s.setV x b).v = s.v.set x b := rfl
@[simp] theorem State.setV_i (x : Reg) (b : Byte) : (s.setV x b).i = s.i := rfl
@[simp] theorem State.setV_pc (x : Reg) (b : Byte) : (s.setV x b).pc = s.pc := rfl
@[simp] theorem State.setV_sp (x : Reg) (b : Byte) : (s.setV x b).sp = s.sp := rfl
@[simp] theorem State.setV_stack (x : Reg) (b : Byte) : (s.setV x b).stack = s.stack := rfl
@[simp] theorem State.setV_dt (x : Reg) (b : Byte) : (s.setV x b).dt = s.dt := rfl
@[simp] theorem State.setV_st (x : Reg) (b : Byte) : (s.setV x b).st = s.st := rfl
@[simp] theorem State.setV_await (x : Reg) (b : Byte) : (s.setV x b).await = s.await := rfl
@[simp] theorem State.setV_awaitX (x : Reg) (b : Byte) : (s.setV x b).awaitX = s.awaitX := rfl
@[simp] theorem State.setV_fault (x : Reg) (b : Byte) : (s.setV x b).fault = s.fault := rfl
@[simp] theorem State.setV_fb (x : Reg) (b : Byte) : (s.setV x b).fb = s.fb := rfl
@[simp] theorem State.setV_dirty (x : Reg) (b : Byte) : (s.setV x b).dirty = s.dirty := rfl
@[simp] theorem State.setV_key (x : Reg) (b : Byte) : (s.setV x b).key = s.key := rfl
@[simp] theorem State.setV_mem (x : Reg) (b : Byte) : (s.setV x b).mem = s.mem := rfl
@[simp] theorem State.setV_written (x : Reg) (b : Byte) : (s.setV x b).written = { s.written with v := s.written.v.set x true } := rfl
@[simp] theorem State.setV_params (x : Reg) (b : Byte) : (s.setV x b).params = s.params := rfl
@[simp] theorem State.setV_rng (x : Reg) (b : Byte) : (s.setV x b).rng = s.rng := rfl
@[simp] theorem State.setV_draws (x : Reg) (b : Byte) : (s.setV x b).draws = s.draws := rfl
@[simp] theorem State.setV_events (x : Reg) (b : Byte) : (s.setV x b).events = s.events := rfl
@[simp] theorem State.setV_host (x : Reg) (b : Byte) : (s.setV x b).host = s.host := rfl

/-! ### `setI` -/

@[simp] theorem State.setI_v (w : Word) : (s.setI w).v = s.v := rfl
@[simp] theorem State.setI_i (w : Word) : (s.setI w).i = w := rfl
@[simp] theorem State.setI_pc (w : Word) : (s.setI w).pc = s.pc := rfl
@[simp] theorem State.setI_sp (w : Word) : (s.setI w).sp = s.sp := rfl
@[simp] theorem State.setI_stack (w : Word) : (s.setI w).stack = s.stack := rfl
@[simp] theorem State.setI_dt (w : Word) : (s.setI w).dt = s.dt := rfl
@[simp] theorem State.setI_st (w : Word) : (s.setI w).st = s.st := rfl
@[simp] theorem State.setI_await (w : Word) : (s.setI w).await = s.await := rfl
@[simp] theorem State.setI_awaitX (w : Word) : (s.setI w).awaitX = s.awaitX := rfl
@[simp] theorem State.setI_fault (w : Word) : (s.setI w).fault = s.fault := rfl
@[simp] theorem State.setI_fb (w : Word) : (s.setI w).fb = s.fb := rfl
@[simp] theorem State.setI_dirty (w : Word) : (s.setI w).dirty = s.dirty := rfl
@[simp] theorem State.setI_key (w : Word) : (s.setI w).key = s.key := rfl
@[simp] theorem State.setI_mem (w : Word) : (s.setI w).mem = s.mem := rfl
@[simp] theorem State.setI_written (w : Word) : (s.setI w).written = { s.written with i := true } := rfl
@[simp] theorem State.setI_params (w : Word) : (s.setI w).params = s.params := rfl
@[simp] theorem State.setI_rng (w : Word) : (s.setI w).rng = s.rng := rfl
@[simp] theorem State.setI_draws (w : Word) : (s.setI w).draws = s.draws := rfl
@[simp] theorem State.setI_events (w : Word) : (s.setI w).events = s.events := rfl
@[simp] theorem State.setI_host (w : Word) : (s.setI w).host = s.host := rfl

/-! ### `setDT` -/

@[simp] theorem State.setDT_v (b : Byte) : (s.setDT b).v = s.v := rfl
@[simp] theorem State.setDT_i (b : Byte) : (s.setDT b).i = s.i := rfl
@[simp] theorem State.setDT_pc (b : Byte) : (s.setDT b).pc = s.pc := rfl
@[simp] theorem State.setDT_sp (b : Byte) : (s.setDT b).sp = s.sp := rfl
@[simp] theorem State.setDT_stack (b : Byte) : (s.setDT b).stack = s.stack := rfl
@[simp] theorem State.setDT_dt (b : Byte) : (s.setDT b).dt = b := rfl
@[simp] theorem State.setDT_st (b : Byte) : (s.setDT b).st = s.st := rfl
@[simp] theorem State.setDT_await (b : Byte) : (s.setDT b).await = s.await := rfl
@[simp] theorem State.setDT_awaitX (b : Byte) : (s.setDT b).awaitX = s.awaitX := rfl
@[simp] theorem State.setDT_fault (b : Byte) : (s.setDT b).fault = s.fault := rfl
@[simp] theorem State.setDT_fb (b : Byte) : (s.setDT b).fb = s.fb := rfl
@[simp] theorem State.setDT_dirty (b : Byte) : (s.setDT b).dirty = s.dirty := rfl
@[simp] theorem State.setDT_key (b : Byte) : (s.setDT b).key = s.key := rfl
@[simp] theorem State.setDT_mem (b : Byte) : (s.setDT b).mem = s.mem := rfl
@[simp] theorem State.setDT_written (b : Byte) : (s.setDT b).written = { s.written with dt := true } := rfl
@[simp] theorem State.setDT_params (b : Byte) : (s.setDT b).params = s.params := rfl
@[simp] theorem State.setDT_rng (b : Byte) : (s.setDT b).rng = s.rng := rfl
@[simp] theorem State.setDT_draws (b : Byte) : (s.setDT b).draws = s.draws := rfl
@[simp] theorem State.setDT_events (b : Byte) : (s.setDT b).events = s.events := rfl
@[simp] theorem State.setDT_host (b : Byte) : (s.setDT b).host = s.host := rfl

/-! ### `setST` -/

@[simp] theorem State.setST_v (b : Byte) : (s.setST b).v = s.v := rfl
@[simp] theorem State.setST_i (b : Byte) : (s.setST b).i = s.i := rfl
@[simp] theorem State.setST_pc (b : Byte) : (s.setST b).pc = s.pc := rfl
@[simp] theorem State.setST_sp (b : Byte) : (s.setST b).sp = s.sp := rfl
@[simp] theorem State.setST_stack (b : Byte) : (s.setST b).stack = s.stack := rfl
@[simp] theorem State.setST_dt (b : Byte) : (s.setST b).dt = s.dt := rfl
@[simp] theorem State.setST_st (b : Byte) : (s.setST b).st = b := rfl
@[simp] theorem State.setST_await (b : Byte) : (s.setST b).await = s.await := rfl
@[simp] theorem State.setST_awaitX (b : Byte) : (s.setST b).awaitX = s.awaitX := rfl
@[simp] theorem State.setST_fault (b : Byte) : (s.setST b).fault = s.fault := rfl
@[simp] theorem State.setST_fb (b : Byte) : (s.setST b).fb = s.fb := rfl
@[simp] theorem State.setST_dirty (b : Byte) : (s.setST b).dirty = s.dirty := rfl
@[simp] theorem State.setST_key (b : Byte) : (s.setST b).key = s.key := rfl
@[simp] theorem State.setST_mem (b : Byte) : (s.setST b).mem = s.mem := rfl
@[simp] theorem State.setST_written (b : Byte) : (s.setST b).written = { s.written with st := true } := rfl
@[simp] theorem State.setST_params (b : Byte) : (s.setST b).params = s.params := rfl
@[simp] theorem State.setST_rng (b : Byte) : (s.setST b).rng = s.rng := rfl
@[simp] theorem State.setST_draws (b : Byte) : (s.setST b).draws = s.draws := rfl
@[simp] theorem State.setST_events (b : Byte) : (s.setST b).events = s.events := rfl
@[simp] theorem State.setST_host (b : Byte) : (s.setST b).host = s.host := rfl

/-! ### `setPc` -/

@[simp] theorem State.setPc_v (w : Word) : (s.setPc w).v = s.v := rfl
@[simp] theorem State.setPc_i (w : Word) : (s.setPc w).i = s.i := rfl
@[simp] theorem State.setPc_pc (w : Word) : (s.setPc w).pc = w := rfl
@[simp] theorem State.setPc_sp (w : Word) : (s.setPc w).sp = s.sp := rfl
@[simp] theorem State.setPc_stack (w : Word) : (s.setPc w).stack = s.stack := rfl
@[simp] theorem State.setPc_dt (w : Word) : (s.setPc w).dt = s.dt := rfl
@[simp] theorem State.setPc_st (w : Word) : (s.setPc w).st = s.st := rfl
@[simp] theorem State.setPc_await (w : Word) : (s.setPc w).await = s.await := rfl
@[simp] theorem State.setPc_awaitX (w : Word) : (s.setPc w).awaitX = s.awaitX := rfl
@[simp] theorem State.setPc_fault (w : Word) : (s.setPc w).fault = s.fault := rfl
@[simp] theorem State.setPc_fb (w : Word) : (s.setPc w).fb = s.fb := rfl
@[simp] theorem State.setPc_dirty (w : Word) : (s.setPc w).dirty = s.dirty := rfl
@[simp] theorem State.setPc_key (w : Word) : (s.setPc w).key = s.key := rfl
@[simp] theorem State.setPc_mem (w : Word) : (s.setPc w).mem = s.mem := rfl
@[simp] theorem State.setPc_written (w : Word) : (s.setPc w).written = s.written := rfl
@[simp] theorem State.setPc_params (w : Word) : (s.setPc w).params = s.params := rfl
@[simp] theorem State.setPc_rng (w : Word) : (s.setPc w).rng = s.rng := rfl
@[simp] theorem State.setPc_draws (w : Word) : (s.setPc w).draws = s.draws := rfl
@[simp] theorem State.setPc_events (w : Word) : (s.setPc w).events = s.events := rfl
@[simp] theorem State.setPc_host (w : Word) : (s.setPc w).host = s.host := rfl

/-! ### `push` -/

@[simp] theorem State.push_v (w : Word) : (s.push w).v = s.v := rfl
@[simp] theorem State.push_i (w : Word) : (s.push w).i = s.i := rfl
@[simp] theorem State.push_pc (w : Word) : (s.push w).pc = s.pc := rfl
@[simp] theorem State.push_sp (w : Word) : (s.push w).sp = s.sp + 1 := rfl
@[simp] theorem State.push_stack (w : Word) : (s.push w).stack = s.stack.set s.sp w := rfl
@[simp] theorem State.push_dt (w : Word) : (s.push w).dt = s.dt := rfl
@[simp] theorem State.push_st (w : Word) : (s.push w).st = s.st := rfl
@[simp] theorem State.push_await (w : Word) : (s.push w).await = s.await := rfl
@[simp] theorem State.push_awaitX (w : Word) : (s.push w).awaitX = s.awaitX := rfl
@[simp] theorem State.push_fault (w : Word) : (s.push w).fault = s.fault := rfl
@[simp] theorem State.push_fb (w : Word) : (s.push w).fb = s.fb := rfl
@[simp] theorem State.push_dirty (w : Word) : (s.push w).dirty = s.dirty := rfl
@[simp] theorem State.push_key (w : Word) : (s.push w).key = s.key := rfl
@[simp] theorem State.push_mem (w : Word) : (s.push w).mem = s.mem := rfl
@[simp] theorem State.push_written (w : Word) : (s.push w).written = s.written := rfl
@[simp] theorem State.push_params (w : Word) : (s.push w).params = s.params := rfl
@[simp] theorem State.push_rng (w : Word) : (s.push w).rng = s.rng := rfl
@[simp] theorem State.push_draws (w : Word) : (s.push w).draws = s.draws := rfl
@[simp] theorem State.push_events (w : Word) : (s.push w).events = s.events := rfl
@[simp] theorem State.push_host (w : Word) : (s.push w).host = s.host := rfl

/-! ### `pop` -/

@[simp] theorem State.pop_v : s.pop.v = s.v := rfl
@[simp] theorem State.pop_i : s.pop.i = s.i := rfl
@[simp] theorem State.pop_pc : s.pop.pc = s.pc := rfl
@[simp] theorem State.pop_sp : s.pop.sp = s.sp - 1 := rfl
@[simp] theorem State.pop_stack : s.pop.stack = s.stack := rfl
@[simp] theorem State.pop_dt : s.pop.dt = s.dt := rfl
@[simp] theorem State.pop_st : s.pop.st = s.st := rfl
@[simp] theorem State.pop_await : s.pop.await = s.await := rfl
@[simp] theorem State.pop_awaitX : s.pop.awaitX = s.awaitX := rfl
@[simp] theorem State.pop_fault : s.pop.fault = s.fault := rfl
@[simp] theorem State.pop_fb : s.pop.fb = s.fb := rfl
@[simp] theorem State.pop_dirty : s.pop.dirty = s.dirty := rfl
@[simp] theorem State.pop_key : s.pop.key = s.key := rfl
@[simp] theorem State.pop_mem : s.pop.mem = s.mem := rfl
@[simp] theorem State.pop_written : s.pop.written = s.written := rfl
@[simp] theorem State.pop_params : s.pop.params = s.params := rfl
@[simp] theorem State.pop_rng : s.pop.rng = s.rng := rfl
@[simp] theorem State.pop_draws : s.pop.draws = s.draws := rfl
@[simp] theorem State.pop_events : s.pop.events = s.events := rfl
@[simp] theorem State.pop_host : s.pop.host = s.host := rfl

/-! ### `writeByte` -/

@[simp] theorem State.writeByte_v (a : Nat) (b : Byte) : (s.writeByte a b).v = s.v := rfl
@[simp] theorem State.writeByte_i (a : Nat) (b : Byte) : (s.writeByte a b).i = s.i := rfl
@[simp] theorem State.writeByte_pc (a : Nat) (b : Byte) : (s.writeByte a b).pc = s.pc := rfl
@[simp] theorem State.writeByte_sp (a : Nat) (b : Byte) : (s.writeByte a b).sp = s.sp := rfl
@[simp] theorem State.writeByte_stack (a : Nat) (b : Byte) : (s.writeByte a b).stack = s.stack := rfl
@[simp] theorem State.writeByte_dt (a : Nat) (b : Byte) : (s.writeByte a b).dt = s.dt := rfl
@[simp] theorem State.writeByte_st (a : Nat) (b : Byte) : (s.writeByte a b).st = s.st := rfl
@[simp] theorem State.writeByte_await (a : Nat) (b : Byte) : (s.writeByte a b).await = s.await := rfl
@[simp] theorem State.writeByte_awaitX (a : Nat) (b : Byte) : (s.writeByte a b).awaitX = s.awaitX := rfl
@[simp] theorem State.writeByte_fault (a : Nat) (b : Byte) : (s.writeByte a b).fault = s.fault := rfl
@[simp] theorem State.writeByte_fb (a : Nat) (b : Byte) : (s.writeByte a b).fb = s.fb := rfl
@[simp] theorem State.writeByte_dirty (a : Nat) (b : Byte) : (s.writeByte a b).dirty = s.dirty := rfl
@[simp] theorem State.writeByte_key (a : Nat) (b : Byte) : (s.writeByte a b).key = s.key := rfl
@[simp] theorem State.writeByte_mem (a : Nat) (b : Byte) : (s.writeByte a b).mem = memWrite s.params.font a b s.mem := rfl
@[simp] theorem State.writeByte_written (a : Nat) (b : Byte) : (s.writeByte a b).written = s.written := rfl
@[simp] theorem State.writeByte_params (a : Nat) (b : Byte) : (s.writeByte a b).params = s.params := rfl
@[simp] theorem State.writeByte_rng (a : Nat) (b : Byte) : (s.writeByte a b).rng = s.rng := rfl
@[simp] theorem State.writeByte_draws (a : Nat) (b : Byte) : (s.writeByte a b).draws = s.draws := rfl
@[simp] theorem State.writeByte_events (a : Nat) (b : Byte) : (s.writeByte a b).events = s.events := rfl
@[simp] theorem State.writeByte_host (a : Nat) (b : Byte) : (s.writeByte a b).host = s.host := rfl

/-! ### `raiseFault` -/

@[simp] theorem State.raiseFault_v (f : FaultInfo) : (s.raiseFault f).v = s.v := rfl
@[simp] theorem State.raiseFault_i (f : FaultInfo) : (s.raiseFault f).i = s.i := rfl
@[simp] theorem State.raiseFault_pc (f : FaultInfo) : (s.raiseFault f).pc = s.pc := rfl
@[simp] theorem State.raiseFault_sp (f : FaultInfo) : (s.raiseFault f).sp = s.sp := rfl
@[simp] theorem State.raiseFault_stack (f : FaultInfo) : (s.raiseFault f).stack = s.stack := rfl
@[simp] theorem State.raiseFault_dt (f : FaultInfo) : (s.raiseFault f).dt = s.dt := rfl
@[simp] theorem State.raiseFault_st (f : FaultInfo) : (s.raiseFault f).st = s.st := rfl
@[simp] theorem State.raiseFault_await (f : FaultInfo) : (s.raiseFault f).await = s.await := rfl
@[simp] theorem State.raiseFault_awaitX (f : FaultInfo) : (s.raiseFault f).awaitX = s.awaitX := rfl
@[simp] theorem State.raiseFault_fault (f : FaultInfo) : (s.raiseFault f).fault = ⟨some f.cause, s.pc, BitVec.ofNat 16 f.info⟩ := rfl
@[simp] theorem State.raiseFault_fb (f : FaultInfo) : (s.raiseFault f).fb = s.fb := rfl
@[simp] theorem State.raiseFault_dirty (f : FaultInfo) : (s.raiseFault f).dirty = s.dirty := rfl
@[simp] theorem State.raiseFault_key (f : FaultInfo) : (s.raiseFault f).key = s.key := rfl
@[simp] theorem State.raiseFault_mem (f : FaultInfo) : (s.raiseFault f).mem = s.mem := rfl
@[simp] theorem State.raiseFault_written (f : FaultInfo) : (s.raiseFault f).written = s.written := rfl
@[simp] theorem State.raiseFault_params (f : FaultInfo) : (s.raiseFault f).params = s.params := rfl
@[simp] theorem State.raiseFault_rng (f : FaultInfo) : (s.raiseFault f).rng = s.rng := rfl
@[simp] theorem State.raiseFault_draws (f : FaultInfo) : (s.raiseFault f).draws = s.draws := rfl
@[simp] theorem State.raiseFault_events (f : FaultInfo) : (s.raiseFault f).events = s.events := rfl
@[simp] theorem State.raiseFault_host (f : FaultInfo) : (s.raiseFault f).host = s.host := rfl

/-! ### Updates made of others -/

theorem State.advance_eq : s.advance = s.setPc (s.pc + 2) := rfl

theorem State.skipIf_eq (c : Bool) : s.skipIf c = s.setPc (if c then s.pc + 2 + 2 else s.pc + 2) := rfl

theorem State.setFlag_eq (f : Bool) : s.setFlag f = s.setV 15 (if f then 0x01 else 0x00) := rfl

/-! ### Reads of memory through updates that leave it alone -/

@[simp] theorem State.setV_readByte (x : Reg) (b : Byte) (k : Nat) : (s.setV x b).readByte k = s.readByte k := rfl
@[simp] theorem State.setI_readByte (w : Word) (k : Nat) : (s.setI w).readByte k = s.readByte k := rfl
@[simp] theorem State.setDT_readByte (b : Byte) (k : Nat) : (s.setDT b).readByte k = s.readByte k := rfl
@[simp] theorem State.setST_readByte (b : Byte) (k : Nat) : (s.setST b).readByte k = s.readByte k := rfl
@[simp] theorem State.setPc_readByte (w : Word) (k : Nat) : (s.setPc w).readByte k = s.readByte k := rfl
@[simp] theorem State.push_readByte (w : Word) (k : Nat) : (s.push w).readByte k = s.readByte k := rfl
@[simp] theorem State.pop_readByte (k : Nat) : s.pop.readByte k = s.readByte k := rfl
@[simp] theorem State.raiseFault_readByte (f : FaultInfo) (k : Nat) : (s.raiseFault f).readByte k = s.readByte k := rfl

/-! ### Readability through updates -/

@[simp] theorem State.setPc_readable (w : Word) (r : RegId) : (s.setPc w).readable r = s.readable r := rfl
@[simp] theorem State.raiseFault_readable (f : FaultInfo) (r : RegId) : (s.raiseFault f).readable r = s.readable r := rfl
@[simp] theorem State.writeByte_readable (a : Nat) (b : Byte) (r : RegId) : (s.writeByte a b).readable r = s.readable r := rfl

end Sys2Proof.Machine
end

