-- ==== Sys2Proof/Laws/Display.lean ====
section
/-! SUPPORT. The blitter: what a draw does to every pixel, its collision bit and its changed bit. -/
namespace Sys2Proof.Machine

/-! ### One pixel -/

theorem pixel_togglePixel (fb : Framebuffer) (X X' : Fin 64) (Y Y' : Fin 32) :
    pixel (togglePixel fb X Y) X' Y' = (pixel fb X' Y' ^^ decide ((X', Y') = (X, Y))) := by
  unfold togglePixel pixel
  by_cases hX : X' = X
  · subst hX
    by_cases hY : Y' = Y
    · subst hY; simp
    · have : ¬ Y.val = Y'.val := fun e => hY (Fin.ext e.symm)
      simp [hY, this]
  · have : ¬ X.val = X'.val := fun e => hX (Fin.ext e.symm)
    simp [hX, this]

/-- Two framebuffers with the same pixels are equal. -/
theorem framebuffer_ext {f g : Framebuffer} (h : ∀ X Y, pixel f X Y = pixel g X Y) : f = g := by
  ext i hi j hj
  exact h ⟨i, hi⟩ ⟨j, hj⟩

@[simp] theorem pixel_blankFb (X : Fin 64) (Y : Fin 32) : pixel blankFb X Y = false := by
  simp [pixel, blankFb]

/-! ### The pixels a sprite targets -/

/-- The targets of one row's 1 bits, in the order the blitter visits them. -/
def rowTargets (px py : Byte) (i : Nat) (row : Byte) (js : List Nat) : List (Fin 64 × Fin 32) :=
  (js.filter (spriteBit row)).map fun j => (targetX px j, targetY py i)

/-- The targets of a sprite's 1 bits, from row `i` on. -/
def spriteTargets (px py : Byte) : Nat → List Byte → List (Fin 64 × Fin 32)
  | _, [] => []
  | i, row :: rows => rowTargets px py i row (List.range 8) ++ spriteTargets px py (i + 1) rows

/-- Plot every target of a list in order. -/
def plotAll (ts : List (Fin 64 × Fin 32)) (b : Blit) : Blit := ts.foldl (fun b t => b.plot t.1 t.2) b

theorem blitRow_eq (px py : Byte) (i : Nat) (row : Byte) (js : List Nat) (b : Blit) :
    blitRow px py i row js b = plotAll (rowTargets px py i row js) b := by
  induction js generalizing b with
  | nil => rfl
  | cons j js ih =>
    rw [blitRow, ih]
    by_cases h : spriteBit row j <;> simp [rowTargets, plotAll, h]

/-- The two loops of `blit` plot the sprite's targets. -/
theorem blitRows_eq (px py : Byte) (i : Nat) (rows : List Byte) (b : Blit) :
    blitRows px py i rows b = plotAll (spriteTargets px py i rows) b := by
  induction rows generalizing i b with
  | nil => rfl
  | cons row rows ih => rw [blitRows, ih, blitRow_eq]; simp [spriteTargets, plotAll]

theorem mem_rowTargets {px py row : Byte} {i : Nat} {X : Fin 64} {Y : Fin 32} :
    (X, Y) ∈ rowTargets px py i row (List.range 8) ↔
      ∃ j < 8, spriteBit row j = true ∧ targetX px j = X ∧ targetY py i = Y := by
  simp [rowTargets, and_assoc]

theorem mem_spriteTargets {px py : Byte} {i : Nat} {rows : List Byte} {X : Fin 64} {Y : Fin 32} :
    (X, Y) ∈ spriteTargets px py i rows ↔
      ∃ k, ∃ h : k < rows.length, ∃ j < 8,
        spriteBit rows[k] j = true ∧ targetX px j = X ∧ targetY py (i + k) = Y := by
  induction rows generalizing i with
  | nil => simp [spriteTargets]
  | cons row rows ih =>
    rw [spriteTargets, List.mem_append, mem_rowTargets, ih]
    constructor
    · rintro (⟨j, hj, h⟩ | ⟨k, hk, j, hj, h⟩)
      · exact ⟨0, by simp, j, hj, h⟩
      · exact ⟨k + 1, by simpa using hk, j, hj, by simpa [Nat.add_assoc, Nat.add_comm 1] using h⟩
    · rintro ⟨_ | k, hk, j, hj, h⟩
      · exact .inl ⟨j, hj, h⟩
      · exact .inr ⟨k, by simpa using hk, j, hj, by simpa [Nat.add_assoc, Nat.add_comm 1] using h⟩

/-! ### No two bits share a target (44 R216) -/

theorem targetX_injective {px : Byte} {j k : Nat} (hj : j < 8) (hk : k < 8) (h : targetX px j = targetX px k) :
    j = k := by
  have := congrArg Fin.val h
  simp only [targetX, Fin.ofNat] at this
  omega

theorem targetY_injective {py : Byte} {i k : Nat} (hi : i < 32) (hk : k < 32) (h : targetY py i = targetY py k) :
    i = k := by
  have := congrArg Fin.val h
  simp only [targetY, Fin.ofNat] at this
  omega

theorem rowTargets_nodup (px py : Byte) (i : Nat) (row : Byte) : (rowTargets px py i row (List.range 8)).Nodup := by
  refine List.Nodup.map_on ?_ (List.nodup_range.filter _)
  intro j hj k hk h
  simp only [List.mem_filter, List.mem_range] at hj hk
  exact targetX_injective hj.1 hk.1 (Prod.mk.inj h).1

theorem spriteTargets_nodup (px py : Byte) {i : Nat} {rows : List Byte} (h : i + rows.length ≤ 32) :
    (spriteTargets px py i rows).Nodup := by
  induction rows generalizing i with
  | nil => simp [spriteTargets]
  | cons row rows ih =>
    rw [List.length_cons] at h
    refine List.nodup_append.2 ⟨rowTargets_nodup .., ih (by omega), ?_⟩
    rintro ⟨X, Y⟩ h1 ⟨X', Y'⟩ h2 e
    rw [Prod.mk.injEq] at e
    obtain ⟨_, _, _, _, hY⟩ := mem_rowTargets.1 h1
    obtain ⟨k, hk, _, _, _, _, hY'⟩ := mem_spriteTargets.1 h2
    have := targetY_injective (py := py) (i := i) (k := i + 1 + k) (by omega) (by omega) (by rw [hY, hY', e.2])
    omega

/-! ### Plotting distinct targets -/

theorem plotAll_spec {ts : List (Fin 64 × Fin 32)} (h : ts.Nodup) (b : Blit) :
    (∀ X Y, pixel (plotAll ts b).fb X Y = (pixel b.fb X Y ^^ decide ((X, Y) ∈ ts))) ∧
    (plotAll ts b).collision = (b.collision || ts.any fun t => pixel b.fb t.1 t.2) ∧
    (plotAll ts b).changed = (b.changed || !ts.isEmpty) := by
  induction ts generalizing b with
  | nil => simp [plotAll]
  | cons t ts ih =>
    obtain ⟨ht, hts⟩ := List.nodup_cons.1 h
    obtain ⟨h1, h2, h3⟩ := ih hts (b.plot t.1 t.2)
    have hstep : plotAll (t :: ts) b = plotAll ts (b.plot t.1 t.2) := rfl
    refine ⟨fun X Y => ?_, ?_, ?_⟩
    · rw [hstep, h1]
      simp only [Blit.plot, pixel_togglePixel]
      by_cases e : (X, Y) = t
      · subst e; simp [ht]
      · simp [e]
    · have hany : (ts.any fun u => pixel (b.plot t.1 t.2).fb u.1 u.2) = ts.any fun u => pixel b.fb u.1 u.2 := by
        rw [Bool.eq_iff_iff, List.any_eq_true, List.any_eq_true]
        refine exists_congr fun u => and_congr_right fun hu => ?_
        have : ¬ ((u.1, u.2) = (t.1, t.2)) := fun e => ht (by have : u = t := e; exact this ▸ hu)
        simp only [Blit.plot, pixel_togglePixel]
        simp [this]
      rw [hstep, h2, hany]
      simp [Blit.plot, Bool.or_assoc]
    · rw [hstep, h3]; simp [Blit.plot]

theorem row_ne_zero_iff (row : Byte) : row ≠ 0 ↔ ∃ j < 8, spriteBit row j = true := by
  revert row; decide

/-- What `blit` does, for a sprite of at most 32 rows: it flips the targeted pixels and no other; it collides when a
targeted pixel was 1; it changes something when a row byte is not 0 (44 R212 to R216). -/
theorem blit_spec (px py : Byte) {rows : List Byte} (fb : Framebuffer) (h : rows.length ≤ 32) :
    (∀ X Y, pixel (blit px py rows fb).fb X Y =
      (pixel fb X Y ^^ decide ((X, Y) ∈ spriteTargets px py 0 rows))) ∧
    ((blit px py rows fb).collision = true ↔
      ∃ X Y, (X, Y) ∈ spriteTargets px py 0 rows ∧ pixel fb X Y = true) ∧
    ((blit px py rows fb).changed = true ↔ ∃ row ∈ rows, row ≠ 0) := by
  obtain ⟨h1, h2, h3⟩ := plotAll_spec (spriteTargets_nodup px py (i := 0) (rows := rows) (by omega)) ⟨fb, false, false⟩
  rw [← blitRows_eq] at h1 h2 h3
  refine ⟨h1, ?_, ?_⟩
  · rw [blit, h2]
    simp only [Bool.false_or, List.any_eq_true, Prod.exists]
  · rw [blit, h3]
    simp only [Bool.false_or, Bool.not_eq_true', List.isEmpty_eq_false_iff_exists_mem, Prod.exists]
    constructor
    · rintro ⟨X, Y, hm⟩
      obtain ⟨k, hk, j, hj, hb, _⟩ := mem_spriteTargets.1 hm
      exact ⟨rows[k], List.getElem_mem hk, (row_ne_zero_iff _).2 ⟨j, hj, hb⟩⟩
    · rintro ⟨row, hr, h0⟩
      obtain ⟨k, hk, rfl⟩ := List.getElem_of_mem hr
      obtain ⟨j, hj, hb⟩ := (row_ne_zero_iff _).1 h0
      exact ⟨_, _, mem_spriteTargets.2 ⟨k, hk, j, hj, hb, rfl, rfl⟩⟩

end Sys2Proof.Machine
end

