-- ==== Sys2Proof/Laws/Memory.lean ====
section
/-! SUPPORT. Memory: a read after a write, and that every memory operation keeps the canonical form. -/
namespace Sys2Proof.Machine

/-! ### Lookups -/

theorem memLookup_memInsert (a b : Nat) (v : Byte) (m : Memory) :
    memLookup (memInsert a v m) b = if b = a then some v else memLookup m b := by
  induction m with
  | nil => simp [memInsert, memLookup]
  | cons c m ih =>
    obtain ⟨k, w⟩ := c
    simp only [memInsert]
    split_ifs with h1 h2 <;> simp only [memLookup] <;> split_ifs <;> simp_all

theorem memLookup_memErase (a b : Nat) (m : Memory) :
    memLookup (memErase a m) b = if b = a then none else memLookup m b := by
  induction m with
  | nil => simp [memErase, memLookup]
  | cons c m ih =>
    obtain ⟨k, w⟩ := c
    simp only [memErase]
    split_ifs <;> simp_all [memLookup]

/-- What every address reads as after a write. -/
theorem memLookup_memWrite (font : List Byte) (a b : Nat) (v : Byte) (m : Memory) :
    (memLookup (memWrite font a v m) b).getD (memBase font b) =
      if b = a then v else (memLookup m b).getD (memBase font b) := by
  unfold memWrite
  split_ifs with h1 h2
  · subst h2; simp [memLookup_memErase, h1]
  · simp [memLookup_memErase, h2]
  · simp [memLookup_memInsert, *]
  · simp [memLookup_memInsert, *]

/-- A read after a write: the byte written, and every other address as before. -/
theorem State.readByte_writeByte (s : State) (a b : Nat) (v : Byte) :
    (s.writeByte a v).readByte b = if b = a then v else s.readByte b :=
  memLookup_memWrite s.params.font a b v s.mem

/-! ### The canonical form -/

theorem mem_memErase {a : Nat} {c : Host.Cell} {m : Memory} (h : c ∈ memErase a m) : c ∈ m ∧ c.1 ≠ a := by
  induction m with
  | nil => simp [memErase] at h
  | cons d m ih =>
    obtain ⟨k, w⟩ := d
    simp only [memErase] at h
    split_ifs at h with hk
    · exact ⟨List.mem_cons_of_mem _ (ih h).1, (ih h).2⟩
    · rcases List.mem_cons.1 h with rfl | h'
      · exact ⟨List.mem_cons_self, fun e => hk e.symm⟩
      · exact ⟨List.mem_cons_of_mem _ (ih h').1, (ih h').2⟩

theorem mem_memInsert {a : Nat} {v : Byte} {c : Host.Cell} {m : Memory} (h : c ∈ memInsert a v m) :
    c = (a, v) ∨ c ∈ m := by
  induction m with
  | nil => simpa [memInsert] using h
  | cons d m ih =>
    obtain ⟨k, w⟩ := d
    simp only [memInsert] at h
    split_ifs at h with h1 h2
    · simpa using h
    · rcases List.mem_cons.1 h with h' | h'
      · exact .inl h'
      · exact .inr (List.mem_cons_of_mem _ h')
    · rcases List.mem_cons.1 h with h' | h'
      · exact .inr (h' ▸ List.mem_cons_self)
      · exact (ih h').imp id (List.mem_cons_of_mem _)

theorem memErase_pairwise {a : Nat} {m : Memory} (h : m.Pairwise fun c d => c.1 < d.1) :
    (memErase a m).Pairwise fun c d => c.1 < d.1 := by
  induction m with
  | nil => simp [memErase]
  | cons d m ih =>
    obtain ⟨k, w⟩ := d
    obtain ⟨hd, hm⟩ := List.pairwise_cons.1 h
    simp only [memErase]
    split_ifs
    · exact ih hm
    · exact List.pairwise_cons.2 ⟨fun c hc => hd c (mem_memErase hc).1, ih hm⟩

theorem memInsert_pairwise {a : Nat} {v : Byte} {m : Memory} (h : m.Pairwise fun c d => c.1 < d.1) :
    (memInsert a v m).Pairwise fun c d => c.1 < d.1 := by
  induction m with
  | nil => simp [memInsert]
  | cons d m ih =>
    obtain ⟨k, w⟩ := d
    obtain ⟨hd, hm⟩ := List.pairwise_cons.1 h
    simp only [memInsert]
    split_ifs with h1 h2
    · refine List.pairwise_cons.2 ⟨fun c hc => ?_, h⟩
      rcases List.mem_cons.1 hc with rfl | hc
      · exact h1
      · exact lt_trans h1 (hd c hc)
    · subst h2; exact List.pairwise_cons.2 ⟨hd, hm⟩
    · refine List.pairwise_cons.2 ⟨fun c hc => ?_, ih hm⟩
      rcases mem_memInsert hc with rfl | hc
      · show k < a
        omega
      · exact hd c hc

/-- A write inside the address space keeps the canonical form. -/
theorem memWrite_wf {font : List Byte} {a : Nat} {v : Byte} {m : Memory} (ha : a < memSize) (h : Memory.wf font m) :
    Memory.wf font (memWrite font a v m) := by
  unfold memWrite
  split_ifs with hv
  · exact ⟨memErase_pairwise h.1, fun c hc => h.2 c (mem_memErase hc).1⟩
  · refine ⟨memInsert_pairwise h.1, fun c hc => ?_⟩
    rcases mem_memInsert hc with rfl | hc
    · exact ⟨ha, hv⟩
    · exact h.2 c hc

/-- Stores of bytes inside the address space keep the canonical form, and the font they are read against. -/
theorem State.writeBytes_wf {s : State} {a : Nat} {bs : List Byte} (ha : a + bs.length ≤ memSize)
    (h : Memory.wf s.params.font s.mem) : Memory.wf (s.writeBytes a bs).params.font (s.writeBytes a bs).mem := by
  induction bs generalizing s a with
  | nil => exact h
  | cons b bs ih =>
    rw [List.length_cons] at ha
    exact ih (s := s.writeByte a b) (by omega) (memWrite_wf (by omega) h)

theorem imageCells_ge {font : List Byte} {a : Nat} {bs : List Byte} {c : Host.Cell} (h : c ∈ imageCells font a bs) :
    a ≤ c.1 ∧ c.1 < a + bs.length ∧ c.2 ≠ memBase font c.1 := by
  induction bs generalizing a with
  | nil => simp [imageCells] at h
  | cons b bs ih =>
    simp only [imageCells] at h
    rw [List.length_cons]
    split_ifs at h with hb
    · have := ih h; exact ⟨by omega, by omega, this.2.2⟩
    · rcases List.mem_cons.1 h with rfl | h
      · exact ⟨le_refl _, by simp, hb⟩
      · have := ih h; exact ⟨by omega, by omega, this.2.2⟩

/-- A loaded image is in the canonical form. -/
theorem imageCells_wf (font : List Byte) {a : Nat} {bs : List Byte} (h : a + bs.length ≤ memSize) :
    Memory.wf font (imageCells font a bs) := by
  refine ⟨?_, fun c hc => ⟨lt_of_lt_of_le (imageCells_ge hc).2.1 h, (imageCells_ge hc).2.2⟩⟩
  clear h
  induction bs generalizing a with
  | nil => simp [imageCells]
  | cons b bs ih =>
    simp only [imageCells]
    split_ifs
    · exact ih
    · exact List.pairwise_cons.2 ⟨fun c hc => Nat.lt_of_succ_le (imageCells_ge hc).1, ih⟩

/-- What an address reads as in a loaded image. -/
theorem memLookup_imageCells (font : List Byte) (a b : Nat) (bs : List Byte) :
    (memLookup (imageCells font a bs) b).getD (memBase font b) =
      if a ≤ b then bs.getD (b - a) (memBase font b) else memBase font b := by
  induction bs generalizing a with
  | nil => simp [imageCells, memLookup]
  | cons c bs ih =>
    have h1 : ¬ (a + 1 ≤ a) := by omega
    simp only [imageCells]
    rcases Nat.lt_trichotomy b a with h | h | h
    · have e : ¬ b = a := by omega
      have h2 : ¬ a ≤ b := by omega
      have h3 : ¬ a + 1 ≤ b := by omega
      split_ifs <;> simp [memLookup, ih, e, h3]
    · subst h
      rw [if_pos (le_refl b)]
      by_cases hc : c = memBase font b
      · rw [if_pos hc, ih, if_neg h1]; simp [hc]
      · rw [if_neg hc]; simp [memLookup]
    · have e : ¬ b = a := by omega
      have h2 : a ≤ b := by omega
      have h3 : a + 1 ≤ b := by omega
      have h4 : b - a = (b - (a + 1)) + 1 := by omega
      split_ifs <;> simp [memLookup, ih, e, h3, h4]

end Sys2Proof.Machine
end

