-- ==== Sys2Proof/Laws/Ops.lean ====
section
/-! SUPPORT. What each shared operation can do, said once. -/
namespace Sys2Proof.Machine

variable {s t : State}

/-! ### Ending a step -/

@[simp] theorem State.settle_ok (s t : State) : s.settle (.ok t) = .next t := rfl

@[simp] theorem State.settle_error (s : State) (f : FaultInfo) : s.settle (.error f) = .next (s.raiseFault f) := rfl

/-- A step that ends in `settle` reached the state it computed, or took a fault and changed nothing else. -/
theorem State.settle_cases {r : Checked State} (h : s.settle r = .next t) :
    r = .ok t ∨ ∃ f, r = .error f ∧ t = s.raiseFault f := by
  cases r with
  | ok u => left; simp_all
  | error f => right; exact ⟨f, rfl, by simpa using h.symm⟩

theorem State.settle_next (s : State) (r : Checked State) : ∃ t, s.settle r = .next t := by
  cases r <;> exact ⟨_, rfl⟩

/-! ### Sequencing checks -/

@[simp] theorem checked_ok_bind {α β : Type} (a : α) (k : α → Checked β) : ((.ok a : Checked α) >>= k) = k a := rfl

@[simp] theorem checked_error_bind {α β : Type} (f : FaultInfo) (k : α → Checked β) :
    ((.error f : Checked α) >>= k) = .error f := rfl

theorem checked_bind_eq_ok {α β : Type} {c : Checked α} {k : α → Checked β} {b : β} :
    (c >>= k) = .ok b ↔ ∃ a, c = .ok a ∧ k a = .ok b := by
  cases c <;> simp

theorem checked_bind_eq_error {α β : Type} {c : Checked α} {k : α → Checked β} {f : FaultInfo} :
    (c >>= k) = .error f ↔ c = .error f ∨ ∃ a, c = .ok a ∧ k a = .error f := by
  cases c <;> simp

/-! ### Register reads -/

theorem State.readReg_ok {α : Type} {r : RegId} (h : s.readable r = true) (a : α) : s.readReg r a = .ok a := by
  simp [State.readReg, h]

theorem State.readReg_error {α : Type} {r : RegId} (h : s.readable r = false) (a : α) :
    s.readReg r a = .error ⟨.unwrittenRead, r.id⟩ := by
  simp [State.readReg, h]

/-- Under RESET_REGS = Zero no read faults (60 R263). -/
theorem State.readable_of_zero (h : s.params.resetRegs = .zero) (r : RegId) : s.readable r = true := by
  simp [State.readable, h]

theorem State.readV_ok {x : Reg} (h : s.readable (.v x) = true) : s.readV x = .ok s.v[x] := s.readReg_ok h _

theorem State.readI_ok (h : s.readable .i = true) : s.readI = .ok s.i := s.readReg_ok h _

theorem State.readDT_ok (h : s.readable .dt = true) : s.readDT = .ok s.dt := s.readReg_ok h _

theorem State.readST_ok (h : s.readable .st = true) : s.readST = .ok s.st := s.readReg_ok h _

theorem State.readPair_ok {x y : Reg} (hx : s.readable (.v x) = true) (hy : s.readable (.v y) = true) :
    s.readPair x y = .ok (s.v[x], s.v[y]) := by
  simp [State.readPair, State.readV_ok hx, State.readV_ok hy]

/-- The registers of a block, read in order. -/
theorem State.readRegs_ok {xs : List Reg} (h : ∀ x ∈ xs, s.readable (.v x) = true) :
    s.readRegs xs = .ok (xs.map fun x => s.v[x]) := by
  induction xs with
  | nil => rfl
  | cons x xs ih =>
    simp [State.readRegs, State.readV_ok (h x List.mem_cons_self),
      ih fun y hy => h y (List.mem_cons_of_mem _ hy)]

theorem mem_blockRegs {x k : Reg} : k ∈ blockRegs x ↔ k ≤ x := by
  revert x k; decide

theorem blockRegs_length (x : Reg) : (blockRegs x).length = x.val + 1 := by
  revert x; decide

/-- V0..Vx stand in the block in order, each at its own number. -/
theorem blockRegs_getElem? (x k : Reg) : (blockRegs x)[k.val]? = if k ≤ x then some k else none := by
  revert x k; decide

/-! ### Checks of addresses -/

theorem checkRead_ok {a : Nat} (h : a ≤ 0xFFF) : checkRead a = .ok () := by
  simp [checkRead, Nat.not_lt.2 h]

theorem checkWrite_ok {p : Config.FontWritePolicy} {a : Nat} (h : a ≤ 0xFFF) (hf : p = .fault → 0x050 ≤ a) :
    checkWrite p a = .ok () := by
  have h2 : ¬ (a ≤ 0x04F ∧ p = .fault) := fun ⟨h1, h2⟩ => by have := hf h2; omega
  simp [checkWrite, Nat.not_lt.2 h, h2]

theorem checkWrite_eq_ok {p : Config.FontWritePolicy} {a : Nat} (h : checkWrite p a = .ok ()) :
    a ≤ 0xFFF ∧ (p = .fault → 0x050 ≤ a) := by
  unfold checkWrite at h
  split_ifs at h with h1 h2
  exact ⟨by omega, fun hp => by by_contra hc; exact h2 ⟨by omega, hp⟩⟩

/-- A range passes when every address of it does. -/
theorem checkRange_eq_ok {check : Nat → Checked Unit} {a n : Nat} :
    checkRange check a n = .ok () ↔ ∀ k < n, check (a + k) = .ok () := by
  induction n generalizing a with
  | zero => simp [checkRange]
  | succ n ih =>
    rw [checkRange, checked_bind_eq_ok]
    constructor
    · rintro ⟨_, h0, h⟩ k hk
      cases k with
      | zero => exact h0
      | succ k => rw [show a + (k + 1) = a + 1 + k by omega]; exact ih.1 h k (by omega)
    · intro h
      refine ⟨(), h 0 (by omega), ih.2 fun k hk => ?_⟩
      rw [show a + 1 + k = a + (k + 1) by omega]; exact h (k + 1) (by omega)

/-- A range fails with the fault of its first address that does (20_memory R73). -/
theorem checkRange_eq_error {check : Nat → Checked Unit} {a n k : Nat} {f : FaultInfo} (hk : k < n)
    (before : ∀ j < k, check (a + j) = .ok ()) (h : check (a + k) = .error f) : checkRange check a n = .error f := by
  induction n generalizing a k with
  | zero => omega
  | succ n ih =>
    rw [checkRange, checked_bind_eq_error]
    cases k with
    | zero => exact .inl h
    | succ k =>
      refine .inr ⟨(), before 0 (by omega), ih (k := k) (by omega) (fun j hj => ?_) ?_⟩
      · rw [show a + 1 + j = a + (j + 1) by omega]; exact before (j + 1) (by omega)
      · rw [show a + 1 + k = a + (k + 1) by omega]; exact h

/-! ### Block stores and loads -/

/-- A block store writes memory alone. -/
theorem State.writeBytes_eq (s : State) (a : Nat) (bs : List Byte) :
    s.writeBytes a bs = { s with mem := (s.writeBytes a bs).mem } := by
  induction bs generalizing s a with
  | nil => rfl
  | cons b bs ih => rw [State.writeBytes]; rw [ih (s.writeByte a b) (a + 1)]; rfl

/-- What every address reads as after a block store. -/
theorem State.readByte_writeBytes (s : State) (a k : Nat) (bs : List Byte) :
    (s.writeBytes a bs).readByte k = if a ≤ k then bs.getD (k - a) (s.readByte k) else s.readByte k := by
  induction bs generalizing s a with
  | nil => simp [State.writeBytes]
  | cons b bs ih =>
    rw [State.writeBytes, ih, State.readByte_writeByte]
    rcases Nat.lt_trichotomy k a with h | h | h
    · have h1 : ¬ a ≤ k := by omega
      have h2 : ¬ a + 1 ≤ k := by omega
      have h3 : ¬ k = a := by omega
      simp [h1, h2, h3]
    · subst h
      have h2 : ¬ k + 1 ≤ k := by omega
      simp
    · have h1 : a ≤ k := by omega
      have h2 : a + 1 ≤ k := by omega
      have h3 : ¬ k = a := by omega
      have h4 : k - a = (k - (a + 1)) + 1 := by omega
      simp [h1, h2, h3, h4]

/-- A block load writes general registers alone. -/
theorem State.loadRegs_eq (s : State) (xs : List Reg) :
    s.loadRegs xs = { s with v := (s.loadRegs xs).v,
                             written := { s.written with v := (s.loadRegs xs).written.v } } := by
  induction xs generalizing s with
  | nil => rfl
  | cons x xs ih => rw [State.loadRegs]; rw [ih]; rfl

/-- What every register holds after a block load. -/
theorem State.loadRegs_v (s : State) (xs : List Reg) (r : Reg) :
    (s.loadRegs xs).v[r] = if r ∈ xs then s.readByte (s.ea r.val) else s.v[r] := by
  induction xs generalizing s with
  | nil => simp [State.loadRegs]
  | cons x xs ih =>
    rw [State.loadRegs, ih]
    by_cases h : r = x
    · subst h
      simp [State.ea]
    · have h' : ¬ x.val = r.val := fun e => h (Fin.ext e.symm)
      simp [h, State.ea, h']

/-- Which registers are written after a block load. -/
theorem State.loadRegs_written (s : State) (xs : List Reg) (r : Reg) :
    (s.loadRegs xs).written.v[r] = (s.written.v[r] || decide (r ∈ xs)) := by
  induction xs generalizing s with
  | nil => simp [State.loadRegs]
  | cons x xs ih =>
    rw [State.loadRegs, ih]
    by_cases h : r = x
    · subst h; simp
    · have h' : ¬ x.val = r.val := fun e => h (Fin.ext e.symm)
      simp [h, h']

/-! ### Fetch and the key poll -/

/-- A fetch below the end of memory reads the word (20_memory R69). -/
theorem State.fetch_ok (h : s.pc.toNat ≤ 0xFFE) :
    s.fetch = .ok (joinWord (s.readByte s.pc.toNat) (s.readByte (s.pc.toNat + 1))) := by
  have h1 : ¬ s.pc.toNat > 0xFFF := by omega
  have h2 : ¬ s.pc.toNat + 1 > 0xFFF := by omega
  simp only [State.fetch, checkFetch, if_neg h1, if_neg h2, checked_ok_bind]

theorem State.fetch_eq_ok {w : Word} (h : s.fetch = .ok w) : s.pc.toNat ≤ 0xFFE := by
  by_contra hc
  have h2 : s.pc.toNat + 1 > 0xFFF := by omega
  by_cases h1 : s.pc.toNat > 0xFFF <;> simp [State.fetch, checkFetch, h1, h2] at h

/-- The least pressed key (45 R241). -/
theorem State.firstPressed_eq_some {k : Fin 16} (hk : s.key[k] = true) (h : ∀ j < k, s.key[j] = false) :
    s.firstPressed = some k := by
  unfold State.firstPressed
  rw [List.find?_eq_some_iff_getElem]
  refine ⟨hk, k.val, by simp, by simp, fun j hj => ?_⟩
  simpa using h ⟨j, by omega⟩ hj

theorem State.firstPressed_eq_none (h : ∀ k : Fin 16, s.key[k] = false) : s.firstPressed = none := by
  simp [State.firstPressed, h]

end Sys2Proof.Machine
end

