-- ==== Sys2Proof/Laws/Exec.lean ====
section
/-! SUPPORT. What an instruction can do, said once: the state it completes in, or a fault and nothing else. -/
namespace Sys2Proof.Machine

variable {s t : State}

/-! ### Reads that succeed -/

theorem State.readReg_eq_ok {α : Type} {r : RegId} {a b : α} (h : s.readReg r a = .ok b) :
    s.readable r = true ∧ b = a := by
  unfold State.readReg at h
  split_ifs at h with hr
  exact ⟨hr, (Except.ok.inj h).symm⟩

theorem State.readV_eq_ok {x : Reg} {a : Byte} (h : s.readV x = .ok a) : s.readable (.v x) = true ∧ a = s.v[x] :=
  State.readReg_eq_ok h

theorem State.readI_eq_ok {w : Word} (h : s.readI = .ok w) : s.readable .i = true ∧ w = s.i := State.readReg_eq_ok h

theorem State.readPair_eq_ok {x y : Reg} {p : Byte × Byte} (h : s.readPair x y = .ok p) : p = (s.v[x], s.v[y]) := by
  simp only [State.readPair, checked_bind_eq_ok, Except.ok.injEq] at h
  obtain ⟨a, ha, b, hb, rfl⟩ := h
  rw [(State.readV_eq_ok ha).2, (State.readV_eq_ok hb).2]

theorem State.readRegs_eq_ok {xs : List Reg} {bs : List Byte} (h : s.readRegs xs = .ok bs) :
    bs = xs.map fun x => s.v[x] := by
  induction xs generalizing bs with
  | nil => simpa [State.readRegs] using h.symm
  | cons x xs ih =>
    simp only [State.readRegs, checked_bind_eq_ok, Except.ok.injEq] at h
    obtain ⟨a, ha, bs', hb, rfl⟩ := h
    rw [(State.readV_eq_ok ha).2, ih hb]; rfl

theorem keyIndex_eq_ok {k : Byte} {j : Fin 16} (h : keyIndex k = .ok j) : k.toNat = j.val := by
  unfold keyIndex at h
  split_ifs at h with hk
  exact congrArg Fin.val (Except.ok.inj h)

/-! ### Completion -/

/-- The instruction `i`, begun in `s`, completes in `t`: its writes, and the checks a later proof needs. -/
def Completes : Instr → State → State → Prop
  | .cls, s, t => t = { s with fb := blankFb, dirty := true }.advance
  | .ret, s, t => s.sp ≠ 0 ∧ t = s.pop.setPc s.stackTop
  | .jp nnn, s, t => t = s.setPc (nnn.setWidth 16)
  | .call nnn, s, t => s.sp ≠ s.params.stackDepth ∧ t = (s.push s.npc).setPc (nnn.setWidth 16)
  | .seImm x kk, s, t => t = s.skipIf (s.v[x] == kk)
  | .sneImm x kk, s, t => t = s.skipIf (s.v[x] != kk)
  | .seReg x y, s, t => t = s.skipIf (s.v[x] == s.v[y])
  | .sneReg x y, s, t => t = s.skipIf (s.v[x] != s.v[y])
  | .ldImm x kk, s, t => t = (s.setV x kk).advance
  | .addImm x kk, s, t => t = (s.setV x (BitVec.ofNat 8 (s.v[x].toNat + kk.toNat))).advance
  | .ldReg x y, s, t => t = (s.setV x s.v[y]).advance
  | .orReg x y, s, t => t = (s.setV x (s.v[x] ||| s.v[y])).advance
  | .andReg x y, s, t => t = (s.setV x (s.v[x] &&& s.v[y])).advance
  | .xorReg x y, s, t => t = (s.setV x (s.v[x] ^^^ s.v[y])).advance
  | .addReg x y, s, t =>
    t = ((s.setV x (BitVec.ofNat 8 (s.v[x].toNat + s.v[y].toNat))).setFlag (carryFlag s.v[x] s.v[y])).advance
  | .sub x y, s, t =>
    t = ((s.setV x (BitVec.ofInt 8 (s.v[x].toNat - s.v[y].toNat))).setFlag (greaterFlag s.v[x] s.v[y])).advance
  | .subn x y, s, t =>
    t = ((s.setV x (BitVec.ofInt 8 (s.v[y].toNat - s.v[x].toNat))).setFlag (greaterFlag s.v[y] s.v[x])).advance
  | .shr x _, s, t => ∃ a : Byte, t = ((s.setV x (a >>> 1)).setFlag (lowBitFlag a)).advance
  | .shl x _, s, t => ∃ a : Byte, t = ((s.setV x (a <<< 1)).setFlag (highBitFlag a)).advance
  | .ldI nnn, s, t => t = (s.setI (nnn.setWidth 16)).advance
  | .jpV0 nnn, s, t => t = s.setPc (BitVec.ofNat 16 (nnn.toNat + s.v[(0 : Reg)].toNat))
  | .rnd x kk, s, t => t = (s.consumeByte.setV x (kk &&& s.drawnByte)).advance
  | .drw x y n, s, t => t = s.draw s.v[x] s.v[y] n.val
  | .skp _, s, t | .sknp _, s, t => ∃ c, t = s.skipIf c
  | .ldVxDt x, s, t => t = (s.setV x s.dt).advance
  | .ldVxK x, s, t => t = { s with await := true, awaitX := x }.advance
  | .ldDtVx x, s, t => t = (s.setDT s.v[x]).advance
  | .ldStVx x, s, t => t = (s.setST s.v[x]).advance
  | .addI x, s, t => t = (s.setI (BitVec.ofNat 16 ((s.i.toNat + s.v[x].toNat) % modulus s.params.iAddWrap))).advance
  | .ldF x, s, t => t = (s.setI (BitVec.ofNat 16 (s.v[x].toNat * 5))).advance
  | .ldB x, s, t =>
    checkRange (checkWrite s.params.fontWritePolicy) (s.ea 0) 3 = .ok () ∧
      t = (s.writeBytes (s.ea 0) (bcdDigits s.v[x])).advance
  | .ldMemVx x, s, t =>
    checkRange (checkWrite s.params.fontWritePolicy) (s.ea 0) (x.val + 1) = .ok () ∧
      t = (s.writeBytes (s.ea 0) ((blockRegs x).map fun k => s.v[k])).advance
  | .ldVxMem x, s, t => t = (s.loadRegs (blockRegs x)).advance

/-- An instruction that answers a next state has completed there, or has taken a fault and changed nothing else. -/
theorem exec_cases {i : Instr} (h : exec i s = .next t) : (∃ f, t = s.raiseFault f) ∨ Completes i s t := by
  have fin : ∀ {r : Checked State}, s.settle r = .next t → (r = .ok t → Completes i s t) →
      (∃ f, t = s.raiseFault f) ∨ Completes i s t := fun hr hc =>
    (State.settle_cases hr).elim (fun e => .inr (hc e)) fun ⟨f, _, e⟩ => .inl ⟨f, e⟩
  cases i with
  | ret =>
    refine fin h fun e => ?_
    split_ifs at e with h0
    exact ⟨h0, (Except.ok.inj e).symm⟩
  | call nnn =>
    refine fin h fun e => ?_
    split_ifs at e with h0
    exact ⟨h0, (Except.ok.inj e).symm⟩
  | cls | jp _ | ldImm _ _ | ldI _ | rnd _ _ | ldVxK _ => exact .inr (Host.Outcome.next.inj h).symm
  | seImm x _ | sneImm x _ | addImm x _ | ldDtVx x | ldStVx x | ldF x | jpV0 _ =>
    refine fin h fun e => ?_
    obtain ⟨a, ha, e⟩ := checked_bind_eq_ok.1 e
    rw [(State.readV_eq_ok ha).2] at e
    exact (Except.ok.inj e).symm
  | seReg x y | sneReg x y | ldReg x y | orReg x y | andReg x y | xorReg x y | addReg x y | sub x y | subn x y =>
    refine fin h fun e => ?_
    obtain ⟨p, hp, e⟩ := checked_bind_eq_ok.1 e
    rw [State.readPair_eq_ok hp] at e
    exact (Except.ok.inj e).symm
  | shr x y | shl x y =>
    refine fin h fun e => ?_
    obtain ⟨a, _, e⟩ := checked_bind_eq_ok.1 e
    exact ⟨a, (Except.ok.inj e).symm⟩
  | drw x y n =>
    refine fin h fun e => ?_
    obtain ⟨px, hx, e⟩ := checked_bind_eq_ok.1 e
    obtain ⟨py, hy, e⟩ := checked_bind_eq_ok.1 e
    obtain ⟨_, _, e⟩ := checked_bind_eq_ok.1 e
    obtain ⟨_, _, e⟩ := checked_bind_eq_ok.1 e
    rw [(State.readV_eq_ok hx).2, (State.readV_eq_ok hy).2] at e
    exact (Except.ok.inj e).symm
  | skp x | sknp x =>
    refine fin h fun e => ?_
    obtain ⟨a, _, e⟩ := checked_bind_eq_ok.1 e
    obtain ⟨k, _, e⟩ := checked_bind_eq_ok.1 e
    exact ⟨_, (Except.ok.inj e).symm⟩
  | ldVxDt x =>
    refine fin h fun e => ?_
    obtain ⟨d, hd, e⟩ := checked_bind_eq_ok.1 e
    rw [(State.readReg_eq_ok hd).2] at e
    exact (Except.ok.inj e).symm
  | addI x =>
    refine fin h fun e => ?_
    obtain ⟨w, hw, e⟩ := checked_bind_eq_ok.1 e
    obtain ⟨a, ha, e⟩ := checked_bind_eq_ok.1 e
    rw [(State.readI_eq_ok hw).2, (State.readV_eq_ok ha).2] at e
    exact (Except.ok.inj e).symm
  | ldB x =>
    refine fin h fun e => ?_
    obtain ⟨a, ha, e⟩ := checked_bind_eq_ok.1 e
    obtain ⟨_, _, e⟩ := checked_bind_eq_ok.1 e
    obtain ⟨_, hc, e⟩ := checked_bind_eq_ok.1 e
    rw [(State.readV_eq_ok ha).2] at e
    exact ⟨hc, (Except.ok.inj e).symm⟩
  | ldMemVx x =>
    refine fin h fun e => ?_
    obtain ⟨_, _, e⟩ := checked_bind_eq_ok.1 e
    obtain ⟨bs, hb, e⟩ := checked_bind_eq_ok.1 e
    obtain ⟨_, hc, e⟩ := checked_bind_eq_ok.1 e
    rw [State.readRegs_eq_ok hb] at e
    exact ⟨hc, (Except.ok.inj e).symm⟩
  | ldVxMem x =>
    refine fin h fun e => ?_
    obtain ⟨_, _, e⟩ := checked_bind_eq_ok.1 e
    obtain ⟨_, _, e⟩ := checked_bind_eq_ok.1 e
    exact (Except.ok.inj e).symm

end Sys2Proof.Machine
end

