-- ==== Sys2Proof/Laws/Frame.lean ====
section
/-! SUPPORT. The frame of the register-writing shapes: one register, and a register then the flag. -/
namespace Sys2Proof.Machine

variable (s : State)

/-- A register's new value, pointwise. -/
theorem State.setV_get (x r : Reg) (b : Byte) : (s.setV x b).v[r] = if r = x then b else s.v[r] := by
  by_cases h : r = x
  · subst h; simp
  · have : ¬ x.val = r.val := fun e => h (Fin.ext e.symm)
    simp [h, this]

/-- A register's new written bit, pointwise. -/
theorem State.setV_written_get (x r : Reg) (b : Byte) :
    (s.setV x b).written.v[r] = (s.written.v[r] || decide (r = x)) := by
  by_cases h : r = x
  · subst h; simp
  · have : ¬ x.val = r.val := fun e => h (Fin.ext e.symm)
    simp [h, this]

/-- One register written, then the next instruction. -/
theorem regsWritten_setV (x : Reg) (b : Byte) :
    RegsWritten s (s.setV x b).advance (fun r => if r = x then some b else none) (s.pc + 2) where
  v r := by
    show (s.setV x b).v[r] = _
    rw [State.setV_get]; split <;> rfl
  written r := by
    show (s.setV x b).written.v[r] = _
    rw [State.setV_written_get]; by_cases h : r = x <;> simp [h]
  pc := rfl
  rest := rfl
  memory _ := rfl

/-- One register written, then the flag, then the next instruction: with x = F the flag is what is left (42 R162). -/
theorem regsWritten_setV_setFlag (x : Reg) (b : Byte) (f : Bool) :
    RegsWritten s ((s.setV x b).setFlag f).advance
      (fun r => if r = 15 then some (flagByte f) else if r = x then some b else none) (s.pc + 2) where
  v r := by
    show ((s.setV x b).setV 15 (flagByte f)).v[r] = _
    rw [State.setV_get, State.setV_get]
    split
    · rfl
    · split <;> rfl
  written r := by
    show ((s.setV x b).setV 15 (flagByte f)).written.v[r] = _
    rw [State.setV_written_get, State.setV_written_get]
    split
    · simp [*]
    · split <;> simp [*]
  pc := rfl
  rest := rfl
  memory _ := rfl

end Sys2Proof.Machine
end

