-- ==== Sys2Proof/Laws/PerInstr.lean ====
section
/-! SUPPORT. Facts of every instruction as syntax, one lemma per constructor. -/
namespace Sys2Proof.Laws

/-! ### Masks as arithmetic -/

theorem and_F000 (w : Word) : (w &&& (0xF000 : Word)).toNat = w.toNat / 4096 * 4096 := by
  have h : w &&& (0xF000 : Word) = (w >>> 12) <<< 12 := by
    ext i hi; interval_cases i <;> simp
  rw [h]
  have := w.isLt
  simp only [BitVec.toNat_shiftLeft, BitVec.toNat_ushiftRight, Nat.shiftRight_eq_div_pow, Nat.shiftLeft_eq]
  omega

theorem and_F00F (w : Word) : (w &&& (0xF00F : Word)).toNat = w.toNat / 4096 * 4096 + w.toNat % 16 := by
  have h : w &&& (0xF00F : Word) = (w >>> 12) <<< 12 ||| (w <<< 12) >>> 12 := by
    ext i hi; interval_cases i <;> simp
  have h2 : (w >>> 12) <<< 12 &&& (w <<< 12) >>> 12 = 0#16 := by
    ext i hi; interval_cases i <;> simp
  rw [h, ← BitVec.add_eq_or_of_and_eq_zero _ _ h2]
  have := w.isLt
  simp only [BitVec.toNat_add, BitVec.toNat_shiftLeft, BitVec.toNat_ushiftRight, Nat.shiftRight_eq_div_pow,
    Nat.shiftLeft_eq]
  omega

theorem and_F0FF (w : Word) : (w &&& (0xF0FF : Word)).toNat = w.toNat / 4096 * 4096 + w.toNat % 256 := by
  have h : w &&& (0xF0FF : Word) = (w >>> 12) <<< 12 ||| (w <<< 8) >>> 8 := by
    ext i hi; interval_cases i <;> simp
  have h2 : (w >>> 12) <<< 12 &&& (w <<< 8) >>> 8 = 0#16 := by
    ext i hi; interval_cases i <;> simp
  rw [h, ← BitVec.add_eq_or_of_and_eq_zero _ _ h2]
  have := w.isLt
  simp only [BitVec.toNat_add, BitVec.toNat_shiftLeft, BitVec.toNat_ushiftRight, Nat.shiftRight_eq_div_pow,
    Nat.shiftLeft_eq]
  omega

/-! ### The words of the formats -/

theorem nibbles_toNat {a b c d : Nat} (ha : a < 16) (hb : b < 16) (hc : c < 16) (hd : d < 16) :
    (nibbles a b c d).toNat = a * 4096 + b * 256 + c * 16 + d := by
  simp only [nibbles, BitVec.toNat_ofNat]; omega

theorem fmtNNN_toNat {op : Nat} (h : op < 16) (nnn : Addr12) : (fmtNNN op nnn).toNat = op * 4096 + nnn.toNat := by
  have := nnn.isLt
  simp only [fmtNNN, BitVec.toNat_ofNat]; omega

theorem fmtXKK_toNat {op : Nat} (h : op < 16) (x : Reg) (kk : Byte) :
    (fmtXKK op x kk).toNat = op * 4096 + x.val * 256 + kk.toNat := by
  have := kk.isLt
  have := x.isLt
  simp only [fmtXKK, BitVec.toNat_ofNat]; omega

theorem nnn_in_row {op : Nat} (h : op < 16) (nnn : Addr12) (p : Word) (hp : p.toNat = op * 4096) :
    fmtNNN op nnn &&& (0xF000 : Word) = p := by
  apply BitVec.eq_of_toNat_eq
  rw [and_F000, fmtNNN_toNat h, hp]
  have := nnn.isLt
  omega

theorem xkk_in_row {op : Nat} (h : op < 16) (x : Reg) (kk : Byte) (p : Word) (hp : p.toNat = op * 4096) :
    fmtXKK op x kk &&& (0xF000 : Word) = p := by
  apply BitVec.eq_of_toNat_eq
  rw [and_F000, fmtXKK_toNat h, hp]
  have := kk.isLt
  have := x.isLt
  omega

theorem xyn_in_row {op : Nat} (h : op < 16) (x y n : Fin 16) (p : Word) (hp : p.toNat = op * 4096) :
    nibbles op x y n &&& (0xF000 : Word) = p := by
  apply BitVec.eq_of_toNat_eq
  rw [and_F000, nibbles_toNat h x.isLt y.isLt n.isLt, hp]
  omega

theorem xys_in_row {op n : Nat} (h : op < 16) (hn : n < 16) (x y : Reg) (p : Word) (hp : p.toNat = op * 4096 + n) :
    nibbles op x y n &&& (0xF00F : Word) = p := by
  apply BitVec.eq_of_toNat_eq
  rw [and_F00F, nibbles_toNat h x.isLt y.isLt hn, hp]
  omega

theorem xs_in_row {op c d : Nat} (h : op < 16) (hc : c < 16) (hd : d < 16) (x : Reg) (p : Word)
    (hp : p.toNat = op * 4096 + c * 16 + d) : nibbles op x c d &&& (0xF0FF : Word) = p := by
  apply BitVec.eq_of_toNat_eq
  rw [and_F0FF, nibbles_toNat h x.isLt hc hd, hp]
  omega

/-! ### The family: an instruction's word lies in its own row of the opcode table (40_cycle R124) -/

/-- The word of the instruction matches the mask and pattern of its row. -/
def InRow.Statement (i : Instr) : Prop := encode i &&& (rowOf i).mask = (rowOf i).pattern

namespace InRow

theorem cls : Statement .cls := rfl
theorem ret : Statement .ret := rfl
theorem jp (nnn : Addr12) : Statement (.jp nnn) := nnn_in_row (by decide) nnn _ rfl
theorem call (nnn : Addr12) : Statement (.call nnn) := nnn_in_row (by decide) nnn _ rfl
theorem seImm (x : Reg) (kk : Byte) : Statement (.seImm x kk) := xkk_in_row (by decide) x kk _ rfl
theorem sneImm (x : Reg) (kk : Byte) : Statement (.sneImm x kk) := xkk_in_row (by decide) x kk _ rfl
theorem seReg (x y : Reg) : Statement (.seReg x y) := xys_in_row (by decide) (by decide) x y _ rfl
theorem ldImm (x : Reg) (kk : Byte) : Statement (.ldImm x kk) := xkk_in_row (by decide) x kk _ rfl
theorem addImm (x : Reg) (kk : Byte) : Statement (.addImm x kk) := xkk_in_row (by decide) x kk _ rfl
theorem ldReg (x y : Reg) : Statement (.ldReg x y) := xys_in_row (by decide) (by decide) x y _ rfl
theorem orReg (x y : Reg) : Statement (.orReg x y) := xys_in_row (by decide) (by decide) x y _ rfl
theorem andReg (x y : Reg) : Statement (.andReg x y) := xys_in_row (by decide) (by decide) x y _ rfl
theorem xorReg (x y : Reg) : Statement (.xorReg x y) := xys_in_row (by decide) (by decide) x y _ rfl
theorem addReg (x y : Reg) : Statement (.addReg x y) := xys_in_row (by decide) (by decide) x y _ rfl
theorem sub (x y : Reg) : Statement (.sub x y) := xys_in_row (by decide) (by decide) x y _ rfl
theorem shr (x y : Reg) : Statement (.shr x y) := xys_in_row (by decide) (by decide) x y _ rfl
theorem subn (x y : Reg) : Statement (.subn x y) := xys_in_row (by decide) (by decide) x y _ rfl
theorem shl (x y : Reg) : Statement (.shl x y) := xys_in_row (by decide) (by decide) x y _ rfl
theorem sneReg (x y : Reg) : Statement (.sneReg x y) := xys_in_row (by decide) (by decide) x y _ rfl
theorem ldI (nnn : Addr12) : Statement (.ldI nnn) := nnn_in_row (by decide) nnn _ rfl
theorem jpV0 (nnn : Addr12) : Statement (.jpV0 nnn) := nnn_in_row (by decide) nnn _ rfl
theorem rnd (x : Reg) (kk : Byte) : Statement (.rnd x kk) := xkk_in_row (by decide) x kk _ rfl
theorem drw (x y : Reg) (n : Fin 16) : Statement (.drw x y n) := xyn_in_row (by decide) x y n _ rfl
theorem skp (x : Reg) : Statement (.skp x) := xs_in_row (by decide) (by decide) (by decide) x _ rfl
theorem sknp (x : Reg) : Statement (.sknp x) := xs_in_row (by decide) (by decide) (by decide) x _ rfl
theorem ldVxDt (x : Reg) : Statement (.ldVxDt x) := xs_in_row (by decide) (by decide) (by decide) x _ rfl
theorem ldVxK (x : Reg) : Statement (.ldVxK x) := xs_in_row (by decide) (by decide) (by decide) x _ rfl
theorem ldDtVx (x : Reg) : Statement (.ldDtVx x) := xs_in_row (by decide) (by decide) (by decide) x _ rfl
theorem ldStVx (x : Reg) : Statement (.ldStVx x) := xs_in_row (by decide) (by decide) (by decide) x _ rfl
theorem addI (x : Reg) : Statement (.addI x) := xs_in_row (by decide) (by decide) (by decide) x _ rfl
theorem ldF (x : Reg) : Statement (.ldF x) := xs_in_row (by decide) (by decide) (by decide) x _ rfl
theorem ldB (x : Reg) : Statement (.ldB x) := xs_in_row (by decide) (by decide) (by decide) x _ rfl
theorem ldMemVx (x : Reg) : Statement (.ldMemVx x) := xs_in_row (by decide) (by decide) (by decide) x _ rfl
theorem ldVxMem (x : Reg) : Statement (.ldVxMem x) := xs_in_row (by decide) (by decide) (by decide) x _ rfl

end InRow

end Sys2Proof.Laws
end

