-- ==== Sys2Proof/Laws/Step.lean ====
section
/-! SUPPORT. What one port operation, and one step, can do, said once; and the three modes. -/
namespace Sys2Proof.Machine

variable {s t : State}

/-! ### Modes (10_state R37) -/

theorem State.mode_eq_running : s.mode = .running ↔ s.fault.cause = none ∧ s.await = false := by
  unfold State.mode; cases s.fault.cause <;> cases s.await <;> simp

theorem State.mode_eq_awaitingKey : s.mode = .awaitingKey ↔ s.fault.cause = none ∧ s.await = true := by
  unfold State.mode; cases s.fault.cause <;> cases s.await <;> simp

theorem State.mode_eq_faulted : s.mode = .faulted ↔ s.fault.cause ≠ none := by
  unfold State.mode; cases s.fault.cause <;> cases s.await <;> simp

/-! ### The port operations -/

/-- What `op` does from `s` when it answers `t`, with what a later proof needs of the fetch. -/
inductive Acts (s : State) : PortOp → State → Prop where
  /-- A step or a tick that faults. -/
  | faults (op : PortOp) (f : FaultInfo) (h : op = .step ∨ op = .tick) : Acts s op (s.raiseFault f)
  /-- A step that runs the instruction it fetched. -/
  | completes (w : Word) (i : Instr) (t : State) (mode : s.mode = .running) (range : s.pc.toNat ≤ 0xFFE)
      (fetched : s.fetch = .ok w) (decoded : decodeWord w = some i) (h : Completes i s t) : Acts s .step t
  /-- A step that reports an unrecognised word. -/
  | reports (w : Word) (mode : s.mode = .running) (range : s.pc.toNat ≤ 0xFFE) (fetched : s.fetch = .ok w)
      (decoded : decodeWord w = none) : Acts s .step (s.reportUnrecognized w)
  /-- A step that polls the keypad. -/
  | polls (mode : s.mode = .awaitingKey) : Acts s .step s.keyPoll
  /-- A tick that reads both timers. -/
  | ticks (mode : s.mode ≠ .faulted) : Acts s .tick ((s.tickDT s.dt).tickST s.st)
  | sets (k : Fin 16) (pressed : Bool) : Acts s (.keySet k pressed) (s.keySet k pressed)
  | acknowledges : Acts s .presentAck s.presentAck
  | loads (bytes : List Byte) : Acts s (.load bytes) (s.load bytes)

/-- A port operation that answers a next state does one of these. -/
theorem act_cases {op : PortOp} (h : act op s = .next t) : Acts s op t := by
  cases op with
  | step =>
    simp only [act, stepPort] at h
    split at h
    · cases h
    · rename_i hm
      exact Host.Outcome.next.inj h ▸ .polls hm
    · rename_i hm
      unfold executeOne at h
      split at h
      · exact Host.Outcome.next.inj h ▸ .faults _ _ (.inl rfl)
      · rename_i w hf
        split at h
        · rename_i i hd
          rcases exec_cases h with ⟨f, rfl⟩ | hc
          · exact .faults _ f (.inl rfl)
          · exact .completes w i t hm (State.fetch_eq_ok hf) hf hd hc
        · rename_i hd
          exact Host.Outcome.next.inj h ▸ .reports w hm (State.fetch_eq_ok hf) hf hd
  | tick =>
    simp only [act, tick] at h
    split_ifs at h with hm
    rcases State.settle_cases h with h | ⟨f, _, rfl⟩
    · obtain ⟨d, hd, h⟩ := checked_bind_eq_ok.1 h
      obtain ⟨e, he, h⟩ := checked_bind_eq_ok.1 h
      rw [(State.readReg_eq_ok hd).2, (State.readReg_eq_ok he).2] at h
      exact Except.ok.inj h ▸ .ticks hm
    · exact .faults _ f (.inr rfl)
  | keySet k pressed => exact Host.Outcome.next.inj h ▸ .sets k pressed
  | presentAck => exact Host.Outcome.next.inj h ▸ .acknowledges
  | load bytes => exact Host.Outcome.next.inj h ▸ .loads bytes

/-- Taking the next host operation off the line changes the line alone. -/
theorem State.nextOp_state (s : State) : s.nextOp.2 = { s with host := s.nextOp.2.host } := by
  unfold State.nextOp; split <;> rfl

/-- A step that answers a next state does what its port operation does, with that operation off the line. -/
theorem step_cases (h : step s = .next t) : Acts s.nextOp.2 s.nextOp.1 t := act_cases h

end Sys2Proof.Machine
end

