-- ==== Sys2Proof/Tests/Slice0.lean ====
section
/-! SUPPORT. Tests and witnesses. Expected values come from the spec's worked examples and vectors (95_test_vectors) or
by hand from its rules; a section's comment names the source. -/
namespace Sys2Proof.Tests

open Sys2Proof Sys2Proof.Machine

/-! ### Helpers -/

/-- A next state that meets `p`. -/
def passes (o : Host.Outcome State Fault Refusal) (p : State → Bool) : Bool :=
  match o with
  | .next t => p t
  | _ => false

/-- The state after reset with V1, V2 and VF set. -/
def regs (v1 v2 v15 : Byte) : State := ((State.reset.setV 1 v1).setV 2 v2).setV 15 v15

/-- One step that fetches and runs the word `w`. -/
def runs (s : State) (w : Nat) (p : State → Bool) : Bool := passes (step (s.withFetchWord 16 w)) p

/-- The step faults with cause code `c` and address `a` at `pc`, which stays. -/
def faults (s : State) (w c a : Nat) : Bool :=
  runs s w fun t => t.faultCode.toNat == c && t.fault.addr.toNat == a && t.fault.pc == s.pc && t.pc == s.pc

/-- The state after reset under other parameters. -/
def unwritten : State := State.resetWith { defaultParams with resetRegs := .unwritten }

/-- As `regs`, under SHIFT_SOURCE = Vy. -/
def shiftsVy (v1 v2 : Byte) : State := { regs v1 v2 0 with params := { defaultParams with shiftSource := .vy } }

/-- As `regs`, under I_ADD_WRAP = 65536. -/
def wide (v2 : Byte) : State := { regs 0 v2 0 with i := 0xFFF, params := { defaultParams with iAddWrap := .w65536 } }

/-- A faulted core. -/
def faultedCore : State := { State.reset with fault := ⟨some .fetchOutOfRange, 0x1000, 0x1000⟩, dt := 5 }

/-- A core waiting for a key, to V3. -/
def waiting : State := { State.reset with pc := 0x202, await := true, awaitX := 3 }

/-- Keys `ks` pressed. -/
def press (s : State) (ks : List (Fin 16)) : State := ks.foldl (fun s k => s.keySet k true) s

/-! ### Well-formedness: each check refuses an ill-formed term -/

theorem test_font_of_79_bytes_refused : ({ defaultParams with font := defaultFont.take 79 }).wf = false := by decide
theorem test_default_parameters_accepted : defaultParams.wf = true := by decide
theorem test_image_of_3585_bytes_refused : imageFits (List.replicate 3585 0) = false := by
  simp only [imageFits, List.length_replicate]; decide
theorem test_image_of_3584_bytes_accepted : imageFits (List.replicate 3584 0) = true := by
  simp only [imageFits, List.length_replicate]; decide

/-! ### Decoding: words written out from the formats of 30_encoding R92 and the sub-opcodes of R95, R96 -/

theorem test_decode_bits_control_flow : decodeWord 0b0011_1010_0101_1100 = some (.seImm 0xA 0x5C) := by decide
theorem test_decode_bits_alu : decodeWord 0b1000_0001_0010_0111 = some (.subn 1 2) := by decide
theorem test_decode_bits_index_memory : decodeWord 0b1010_0011_0000_0001 = some (.ldI 0x301) := by decide
theorem test_decode_bits_display : decodeWord 0b1101_0001_0010_0101 = some (.drw 1 2 5) := by decide
theorem test_decode_bits_keypad_timers : decodeWord 0b1110_0101_1001_1110 = some (.skp 5) := by decide

theorem test_decode_low :
    [(0x00E0, Instr.cls), (0x00EE, .ret), (0x1ABC, .jp 0xABC), (0x2DEF, .call 0xDEF), (0x3A5C, .seImm 0xA 0x5C),
      (0x4B6D, .sneImm 0xB 0x6D), (0x5120, .seReg 1 2), (0x6A2F, .ldImm 0xA 0x2F), (0x71FF, .addImm 1 0xFF)].all
      (fun p => decodeWord p.1 == some p.2 && encode p.2 == p.1) = true := by decide

theorem test_decode_mid :
    [(0x8120, Instr.ldReg 1 2), (0x8121, .orReg 1 2), (0x8122, .andReg 1 2), (0x8123, .xorReg 1 2),
      (0x8124, .addReg 1 2), (0x8125, .sub 1 2), (0x8126, .shr 1 2), (0x8127, .subn 1 2), (0x812E, .shl 1 2),
      (0x9120, .sneReg 1 2), (0xA301, .ldI 0x301), (0xB302, .jpV0 0x302), (0xC30F, .rnd 3 0x0F)].all
      (fun p => decodeWord p.1 == some p.2 && encode p.2 == p.1) = true := by decide

theorem test_decode_high :
    [(0xD125, Instr.drw 1 2 5), (0xE59E, .skp 5), (0xE5A1, .sknp 5), (0xF407, .ldVxDt 4), (0xF30A, .ldVxK 3),
      (0xF315, .ldDtVx 3), (0xF318, .ldStVx 3), (0xF21E, .addI 2), (0xF029, .ldF 0), (0xFA33, .ldB 0xA),
      (0xF155, .ldMemVx 1), (0xF265, .ldVxMem 2)].all
      (fun p => decodeWord p.1 == some p.2 && encode p.2 == p.1) = true := by decide

/-- 95 2.1, and the edges of the classes of R97. -/
theorem test_decode_unrecognised :
    [0x0000, 0x0123, 0x00E1, 0x0FFF, 0x5121, 0x9121, 0x8128, 0x800F, 0x801C, 0xE000, 0xE19F, 0xF000, 0xF1FF, 0xFFFF].all
      (fun w => decodeWord w == none) = true := by decide

/-- A row shorter than the instruction reads as zeros above `nbits`. -/
theorem test_decode_table_word : decodeTableWord 16 0xD125 = some (.drw 1 2 5) ∧ decodeTableWord 8 0xFFE0 = some .cls := by
  decide

/-! ### Cycle and unrecognised words (95 2.1) -/

theorem test_unrecognised_is_reported :
    runs (regs 7 7 0) 0x5121 (fun t => t.events == [⟨0x200, 0x5121⟩] && t.pc == 0x202 && t.v[1] == 7) = true := by decide
theorem test_odd_pc_fetches :
    runs { State.reset with pc := 0x201 } 0x6A2F (fun t => t.v[10] == 0x2F && t.pc == 0x203) = true := by decide
theorem test_fetch_above_memory_faults :
    passes (step { State.reset with pc := 0x1000 })
      (fun t => t.faultCode == 1 && t.fault.addr == 0x1000 && t.fault.pc == 0x1000) = true := by decide
theorem test_fetch_across_the_end_faults :
    passes (step { State.reset with pc := 0xFFF })
      (fun t => t.faultCode == 1 && t.fault.addr == 0x1000 && t.fault.pc == 0xFFF) = true := by decide

/-! ### Control flow (95 2.2) -/

theorem test_jp : runs State.reset 0x1234 (fun t => t.pc == 0x234) = true := by decide
theorem test_call :
    runs { State.reset with pc := 0x204 } 0x2210
      (fun t => t.stack[0]? == some 0x206 && t.sp == 1 && t.pc == 0x210) = true := by decide
theorem test_call_overflow : faults { State.reset with sp := 16 } 0x2200 4 0x202 = true := by decide
theorem test_ret :
    runs { State.reset with pc := 0x212, sp := 1, stack := [0x206] } 0x00EE
      (fun t => t.sp == 0 && t.pc == 0x206) = true := by decide
theorem test_ret_underflow : faults State.reset 0x00EE 5 0 = true := by decide
theorem test_se_imm :
    (runs (regs 7 0 0) 0x3107 (fun t => t.pc == 0x204) && runs (regs 8 0 0) 0x3107 (fun t => t.pc == 0x202)) = true := by
  decide
theorem test_se_imm_at_the_end :
    runs { State.reset with pc := 0xFFC } 0x3000 (fun t => t.pc == 0x1000 && t.faultCode == 0) = true := by decide
theorem test_sne_imm :
    (runs (regs 7 0 0) 0x4107 (fun t => t.pc == 0x202) && runs (regs 8 0 0) 0x4107 (fun t => t.pc == 0x204)) = true := by
  decide
theorem test_se_reg :
    (runs (regs 0x10 0x10 0) 0x5120 (fun t => t.pc == 0x204) &&
      runs (regs 0x10 0x11 0) 0x5120 (fun t => t.pc == 0x202)) = true := by decide
theorem test_sne_reg :
    (runs (regs 0x10 0x11 0) 0x9120 (fun t => t.pc == 0x204) &&
      runs (regs 0x10 0x11 0) 0x9110 (fun t => t.pc == 0x202)) = true := by decide
theorem test_jp_v0 : runs (State.reset.setV 0 0x10) 0xB300 (fun t => t.pc == 0x310) = true := by decide
theorem test_jp_v0_past_the_end : runs (State.reset.setV 0 0xFF) 0xBFFF (fun t => t.pc == 0x10FE) = true := by decide

/-! ### Registers and ALU (95 2.3) -/

theorem test_ld_imm : runs State.reset 0x6A2F (fun t => t.v[10] == 0x2F && t.pc == 0x202) = true := by decide
theorem test_add_imm_wraps :
    runs (regs 0xFF 0 0) 0x7101 (fun t => t.v[1] == 0 && t.v[15] == 0) = true := by decide
theorem test_ld_reg : runs (regs 0 0x44 0) 0x8120 (fun t => t.v[1] == 0x44) = true := by decide
theorem test_or : runs (regs 0x0F 0xF0 0x55) 0x8121 (fun t => t.v[1] == 0xFF && t.v[15] == 0x55) = true := by decide
theorem test_and : runs (regs 0x3C 0x0F 0x55) 0x8122 (fun t => t.v[1] == 0x0C && t.v[15] == 0x55) = true := by decide
theorem test_xor : runs (regs 0xFF 0x0F 0x55) 0x8123 (fun t => t.v[1] == 0xF0 && t.v[15] == 0x55) = true := by decide
theorem test_add_reg : runs (regs 0x80 0x80 0) 0x8124 (fun t => t.v[1] == 0 && t.v[15] == 1) = true := by decide
theorem test_add_reg_to_vf : runs (regs 0x01 0 0xFF) 0x8F14 (fun t => t.v[15] == 1) = true := by decide
theorem test_sub : runs (regs 5 3 0) 0x8125 (fun t => t.v[1] == 2 && t.v[15] == 1) = true := by decide
theorem test_sub_equal : runs (regs 5 5 1) 0x8125 (fun t => t.v[1] == 0 && t.v[15] == 0) = true := by decide
theorem test_subn : runs (regs 3 5 0) 0x8127 (fun t => t.v[1] == 2 && t.v[15] == 1) = true := by decide
theorem test_subn_wraps : runs (regs 5 3 1) 0x8127 (fun t => t.v[1] == 0xFE && t.v[15] == 0) = true := by decide
theorem test_shr : runs (regs 5 0 0) 0x8126 (fun t => t.v[1] == 2 && t.v[15] == 1) = true := by decide
theorem test_shr_vy : runs (shiftsVy 0 5) 0x8126 (fun t => t.v[1] == 2 && t.v[15] == 1) = true := by decide
theorem test_shl : runs (regs 0x81 0 0) 0x812E (fun t => t.v[1] == 2 && t.v[15] == 1) = true := by decide
theorem test_shl_of_vf : runs (regs 0 0 0x81) 0x8F1E (fun t => t.v[15] == 1) = true := by decide
theorem test_rnd :
    runs { State.reset with rng := [0xA5, 0x11] } 0xC30F (fun t => t.v[3] == 0x05 && t.rng == [0x11]) = true := by decide
theorem test_rnd_takes_every_bit : runs { State.reset with rng := [0x5A] } 0xC3FF (fun t => t.v[3] == 0x5A) = true := by
  decide

/-! ### I and data memory (95 2.4) -/

theorem test_ld_i : runs State.reset 0xA300 (fun t => t.i == 0x300 && t.pc == 0x202) = true := by decide
theorem test_add_i_wraps :
    runs { regs 0 1 0x55 with i := 0xFFF } 0xF21E (fun t => t.i == 0 && t.v[15] == 0x55) = true := by decide
theorem test_add_i_wide : runs (wide 1) 0xF21E (fun t => t.i == 0x1000) = true := by decide
theorem test_ld_f : runs (State.reset.setV 0 5) 0xF029 (fun t => t.i == 0x19) = true := by decide
theorem test_ld_f_whole_byte : runs (State.reset.setV 0 0xFF) 0xF029 (fun t => t.i == 0x4FB) = true := by decide
theorem test_ld_b :
    runs { State.reset.setV 10 0xEA with i := 0x300 } 0xFA33
      (fun t => t.readBytes 0x300 3 == [2, 3, 4] && t.i == 0x300) = true := by decide
theorem test_ld_b_past_the_end : faults { State.reset with i := 0xFFE } 0xF033 3 0x1000 = true := by decide
theorem test_block_store :
    runs { (State.reset.setV 0 0x11).setV 1 0x22 with i := 0x300 } 0xF155
      (fun t => t.readBytes 0x300 3 == [0x11, 0x22, 0] && t.i == 0x300) = true := by decide
theorem test_block_store_in_font : faults { State.reset with i := 0x04F } 0xF055 7 0x04F = true := by decide
theorem test_block_load_of_glyph_0 :
    runs State.reset 0xF465
      (fun t => [t.v[0], t.v[1], t.v[2], t.v[3], t.v[4]] == [0xF0, 0x90, 0x90, 0x90, 0xF0] && t.i == 0) = true := by
  decide
theorem test_block_load_past_the_end : faults { State.reset with i := 0xFFF } 0xF165 2 0x1000 = true := by decide

/-! ### Display (95 2.5) -/

theorem test_cls_marks_dirty :
    runs { State.reset with fb := togglePixel blankFb 5 6 } 0x00E0 (fun t => !t.fb[5][6] && t.dirty) = true := by decide
theorem test_drw_wraps :
    runs { regs 0x3F 0x1F 1 with i := 0x300, mem := [(0x300, 0xC0)] } 0xD121
      (fun t => t.fb[63][31] && t.fb[0][31] && !t.fb[1][31] && t.v[15] == 0 && t.dirty) = true := by decide
theorem test_drw_collides :
    runs { regs 0 0 0 with fb := togglePixel blankFb 0 0, i := 0x300, mem := [(0x300, 0xC0)] } 0xD121
      (fun t => !t.fb[0][0] && t.fb[1][0] && t.v[15] == 1) = true := by decide

/-! ### Keypad and timers (95 2.6) -/

theorem test_skp :
    (runs (press (State.reset.setV 5 7) [7]) 0xE59E (fun t => t.pc == 0x204) &&
      runs (State.reset.setV 5 7) 0xE59E (fun t => t.pc == 0x202)) = true := by decide
theorem test_skp_of_key_16 : faults (State.reset.setV 10 0x10) 0xEA9E 6 0x10 = true := by decide
theorem test_sknp :
    (runs (State.reset.setV 5 7) 0xE5A1 (fun t => t.pc == 0x204) &&
      runs (press (State.reset.setV 5 7) [7]) 0xE5A1 (fun t => t.pc == 0x202)) = true := by decide
theorem test_ld_vx_dt : runs { State.reset with dt := 5 } 0xF407 (fun t => t.v[4] == 5) = true := by decide
theorem test_ld_dt_vx : runs (State.reset.setV 3 7) 0xF315 (fun t => t.dt == 7 && t.st == 0) = true := by decide
theorem test_ld_st_vx : runs (State.reset.setV 3 0x10) 0xF318 (fun t => t.st == 0x10 && t.soundActive) = true := by decide
theorem test_ld_vx_k :
    runs (press State.reset [2]) 0xF30A
      (fun t => t.await && t.awaitX == 3 && t.pc == 0x202 && t.v[3] == 0) = true := by decide
theorem test_poll_takes_least_key :
    passes (step (press waiting [9, 7])) (fun t => t.v[3] == 7 && !t.await && t.pc == 0x202) = true := by decide
theorem test_tick_stops_at_zero :
    passes (act .tick { State.reset with st := 2 }) (fun t => t.dt == 0 && t.st == 1) = true := by decide
theorem test_lined_up_tick_comes_before_step :
    passes (step { State.reset with dt := 5, host := [.tick] })
      (fun t => t.dt == 4 && t.pc == 0x200 && t.host == []) = true := by decide

/-! ### Faults and reset (95 2.7) -/

theorem test_no_step_after_fault : step faultedCore = .fault (.stepDisabled faultedCore.fault) := rfl
theorem test_load_places_image :
    passes (act (.load [0x12, 0x34]) faultedCore)
      (fun t => t.readBytes 0x1FF 4 == [0, 0x12, 0x34, 0] && t.pc == 0x200 && t.faultCode == 0 && t.dt == 0) = true := by
  decide
theorem test_unwritten_read : faults unwritten 0x8124 9 1 = true := by decide
/-- By 60 R260 and log entry 10: id 18 is ST's. -/
theorem test_tick_of_unwritten_st :
    passes (act .tick (unwritten.setDT 5)) (fun t => t.faultCode == 9 && t.fault.addr == 18 && t.dt == 5) = true := by
  decide

/-! ### Witnesses: for each statement with hypotheses, values that meet them, clause by clause, at the boundaries -/

theorem witness_EncodeOfDecodeIsIdentity : decodeWord 0xFF65 = some (.ldVxMem 15) := by decide

theorem witness_DecoderFollowsOpcodeTable : decodeWord 0x00EE = some .ret ∧ decodeWord 0x00EF = none := by decide

theorem witness_UnrecognisedWordsByClass : 0xFFFF < 65536 ∧ decodeWord (BitVec.ofNat 16 0xFFFF) = none ∧
    decodeWord (BitVec.ofNat 16 0xFF65) ≠ none := by decide

/-- At the last address a fetch can use, with nothing lined up, and with a `step` lined up. -/
theorem witness_StepRunsDecodedInstruction :
    let r := ({ State.reset with pc := 0xFFE }).placeWord 0x00E0
    r.nextOp = (.step, r) ∧ r.mode = .running ∧ r.pc.toNat ≤ 0xFFE ∧ r.host = [] ∧
      (({ r with host := [.step] }).nextOp.1 = .step ∧ ({ r with host := [.step] }).nextOp.2.pc = r.pc) ∧
      decode [r.readByte r.pc.toNat, r.readByte (r.pc.toNat + 1)] = .ok (.cls, []) :=
  ⟨rfl, rfl, by decide, rfl, ⟨rfl, rfl⟩, rfl⟩

theorem witness_UnrecognisedWordIsReportedNoOp :
    let s := { State.reset with pc := 0xFFE }
    s.mode = .running ∧ s.pc.toNat ≤ 0xFFE ∧
      decode [s.readByte s.pc.toNat, s.readByte (s.pc.toNat + 1)] = .error (.unrecognized 0x0000) :=
  ⟨rfl, by decide, rfl⟩

theorem witness_FetchIsBigEndianOrFaults :
    State.reset.mode = .running ∧ (0xFFE : Word).toNat ≤ 0xFFE ∧ (0xFFF : Word).toNat = 0xFFF ∧
      (0x1000 : Word).toNat > 0xFFF ∧ ({ State.reset with pc := 0x1000 }).mode = .running := by decide

theorem witness_FaultedModeIsAbsorbing :
    faultedCore.mode = .faulted ∧ (∃ t, act (.keySet 15 true) faultedCore = .next t) ∧
      (∀ bytes, PortOp.keySet 15 true ≠ .load bytes) ∧ (List.replicate 3584 (0 : Byte)).length ≤ 3584 :=
  ⟨rfl, ⟨_, rfl⟩, fun _ => nofun, List.length_replicate.le⟩

theorem witness_KeyPollTakesLeastPressedKey :
    waiting.mode = .awaitingKey ∧ (∀ k : Fin 16, waiting.key[k] = false) ∧
      (press waiting [0]).key[(0 : Fin 16)] = true ∧
      ((press waiting [15]).key[(15 : Fin 16)] = true ∧ ∀ j < (15 : Fin 16), (press waiting [15]).key[j] = false) := by
  decide

/-- For a step from Running: a fetched Fx0A, a word that is not one, and a fetch fault. Then the poll, the other ports,
and the one way out of Faulted mode. -/
theorem witness_ModesChangeOnlyAsStated :
    State.reset.mode = .running ∧ (∃ t, exec (.ldVxK 3) State.reset = .next t) ∧
      passes (exec .ret State.reset) (fun t => t.fault != State.reset.fault) = true ∧
      passes (act .step (State.reset.placeWord 0xF30A)) (fun t => t.mode == .awaitingKey) = true ∧
      passes (act .step State.reset) (fun t => t.mode == .running) = true ∧
      (({ State.reset with pc := 0xFFF }).mode = .running ∧
        passes (act .step { State.reset with pc := 0xFFF }) (fun t => t.mode == .faulted) = true) ∧
      (waiting.mode = .awaitingKey ∧ ∃ t, act .step waiting = .next t) ∧
      (PortOp.presentAck ≠ .step ∧ (∀ bytes, PortOp.presentAck ≠ .load bytes) ∧ ∃ t, act .presentAck waiting = .next t) ∧
      (faultedCore.mode = .faulted ∧ passes (act (.load []) faultedCore) (fun t => t.mode != .faulted) = true) :=
  ⟨rfl, ⟨_, rfl⟩, by decide, by decide, by decide, ⟨rfl, by decide⟩, ⟨rfl, _, rfl⟩,
    ⟨nofun, fun _ => nofun, _, rfl⟩, ⟨rfl, by decide⟩⟩

/-- One entry free, and none. -/
theorem witness_CallPushesNextAddress :
    ({ State.reset with sp := 15 }).sp ≠ State.reset.params.stackDepth ∧
      ({ State.reset with sp := 16 }).sp = State.reset.params.stackDepth := by decide

theorem witness_ReturnPopsAddress :
    let s := { State.reset with sp := 16 }
    (s.sp ≠ 0 ∧ s.stack[s.sp - 1]? = some 0x0000) ∧ State.reset.sp = 0 := by decide

theorem witness_ReturnUndoesCall :
    let s := { State.reset with sp := 15 }
    s.sp < s.params.stackDepth ∧ s.stack.length = s.params.stackDepth := by decide

/-- Every register is readable after reset, and under RESET_REGS = Unwritten a register that was written. This is the
hypothesis of RegisterSkips, ImmediateSkips, IndexedJumpAddsV0, AddImmediateSetsNoFlag, AddRegisterSetsCarry,
SubtractSetsStrictNotBorrow, LoadIndexForms, TimerMoves and DrawOfNoRowsOnlyClearsFlag. -/
theorem witness_readable :
    (∀ x : Reg, State.reset.readable (.v x) = true) ∧ State.reset.readable .i = true ∧
      State.reset.readable .dt = true ∧ State.reset.readable .st = true ∧
      (unwritten.setV 15 0).readable (.v 15) = true ∧ (unwritten.setDT 0).readable .dt = true := by decide

theorem witness_AssignAndLogicSetNoFlag :
    (regs 0x0F 0xF0 0).readable (.v 1) = true ∧ (regs 0x0F 0xF0 0).readable (.v 2) = true ∧
      (Instr.xorReg 1 2, (0xFF : Byte)) ∈ [(Instr.ldReg 1 2, (0xF0 : Byte)), (.orReg 1 2, 0xFF), (.andReg 1 2, 0x00),
        (.xorReg 1 2, (regs 0x0F 0xF0 0).v[1] ^^^ (regs 0x0F 0xF0 0).v[2])] := by decide

theorem witness_ShiftsSetShiftedOutBit :
    (State.reset.readable (.v 1) = true ∧ State.reset.params.shiftSource = .vx) ∧
      (shiftsVy 0 5).readable (.v 1) = true ∧ (shiftsVy 0 5).params.shiftSource = .vy ∧
      (shiftsVy 0 5).readable (.v 2) = true ∧ (5 : Byte) = (shiftsVy 0 5).v[(2 : Reg)] := by decide

theorem witness_RandomByteIsMaskedInput :
    ({ State.reset with rng := [0xA5] }).rng = 0xA5 :: [] ∧ State.reset.rng = [] := by decide

theorem witness_AddIndexWraps :
    State.reset.readable .i = true ∧ State.reset.readable (.v 2) = true ∧ State.reset.params.iAddWrap = .w4096 ∧
      (wide 1).readable .i = true ∧ (wide 1).readable (.v 2) = true ∧ (wide 1).params.iAddWrap = .w65536 := by decide

/-- The lowest and the highest three bytes that can be written, the first fault above memory with two bytes before it,
and the last byte of the font region. -/
theorem witness_DecimalDigitsStored :
    State.reset.readable (.v 0) = true ∧ State.reset.readable .i = true ∧
      (∀ k < 3, WritableAddr defaultParams (({ State.reset with i := 0x050 }).ea k)) ∧
      (∀ k < 3, WritableAddr defaultParams (({ State.reset with i := 0xFFD }).ea k)) ∧
      ((∀ j < 2, WritableAddr defaultParams (({ State.reset with i := 0xFFE }).ea j)) ∧
        ({ State.reset with i := 0xFFE }).ea 2 > 0xFFF) ∧
      (({ State.reset with i := 0x04F }).ea 0 ≤ 0x04F ∧ State.reset.params.fontWritePolicy = .fault) := by
  unfold WritableAddr; decide

theorem witness_BlockStoreWritesRegisters :
    State.reset.readable .i = true ∧ (∀ k ≤ (15 : Reg), State.reset.readable (.v k) = true) ∧
      (∀ k ≤ (15 : Reg), WritableAddr defaultParams (({ State.reset with i := 0xFF0 }).ea k.val)) ∧
      (∀ k ≤ (0 : Reg), WritableAddr defaultParams (({ State.reset with i := 0x050 }).ea k.val)) ∧
      ((∀ j : Reg, j < 15 → WritableAddr defaultParams (({ State.reset with i := 0xFF1 }).ea j.val)) ∧
        ({ State.reset with i := 0xFF1 }).ea 15 > 0xFFF) ∧
      (({ State.reset with i := 0x04F }).ea 0 ≤ 0x04F ∧ State.reset.params.fontWritePolicy = .fault) := by
  unfold WritableAddr; decide

theorem witness_BlockLoadReadsRegisters :
    State.reset.readable .i = true ∧ ({ State.reset with i := 0xFF0 }).ea 15 ≤ 0xFFF ∧
      (∀ j : Reg, j < 1 → ({ State.reset with i := 0xFFF }).ea j.val ≤ 0xFFF) ∧
      ({ State.reset with i := 0xFFF }).ea 1 > 0xFFF := by decide

theorem witness_StoreIsSeenByNextFetch :
    let s := { State.reset with i := 0x202 }
    1 ≤ (1 : Reg).val ∧ s.readable .i = true ∧ (∀ k ≤ (1 : Reg), s.readable (.v k) = true) ∧
      (∀ k ≤ (1 : Reg), WritableAddr s.params (s.ea k.val)) ∧ s.i = s.pc + 2 := by
  unfold WritableAddr; decide

/-- Fifteen rows that end at 0xFFF, no row with I at its largest, and a third row out of range. -/
theorem witness_DrawXorsSpriteAndReportsCollision :
    DrawEnabled { State.reset with i := 0xFF1 } 1 2 15 ∧ DrawEnabled { State.reset with i := 0xFFFF } 1 2 0 ∧
      (State.reset.readable (.v 1) = true ∧ State.reset.readable (.v 2) = true ∧ State.reset.readable .i = true) ∧
      (2 < (3 : Fin 16).val ∧ (∀ j < 2, ({ State.reset with i := 0xFFE }).ea j ≤ 0xFFF) ∧
        ({ State.reset with i := 0xFFE }).ea 2 > 0xFFF) := by
  unfold DrawEnabled; decide

/-- The second draw follows the first at once: the state between is the one the first leaves. -/
theorem witness_DrawTwiceRestoresDisplay :
    let s := { regs 0 0 0 with i := 0x300, mem := [(0x300, 0xC0)] }
    let t := s.draw 0 0 1
    DrawEnabled s 1 2 1 ∧ DrawEnabled t 1 2 1 ∧ exec (.drw 1 2 1) s = .next t ∧
      exec (.drw 1 2 1) t = .next (t.draw 0 0 1) ∧ t.fb = t.fb ∧ t.v[(1 : Reg)] = s.v[(1 : Reg)] ∧
      t.v[(2 : Reg)] = s.v[(2 : Reg)] ∧ t.i = s.i ∧ (∀ i < 1, t.readByte (s.ea i) = s.readByte (s.ea i)) ∧
      ∀ (X : Fin 64) (Y : Fin 32), s.fb[X][Y] = false := by
  refine ⟨?_, ?_, rfl, rfl, rfl, ?_, ?_, rfl, fun _ _ => rfl, fun X Y => ?_⟩
  · unfold DrawEnabled; decide
  · unfold DrawEnabled; decide
  · decide
  · decide
  · show ((Vector.replicate 64 (Vector.replicate 32 false))[X.val])[Y.val] = false
    simp

/-- The last key, and the first value that is no key. -/
theorem witness_KeySkips :
    State.reset.readable (.v 5) = true ∧ (State.reset.setV 5 0x0F).v[(5 : Reg)].toNat = (15 : Fin 16).val ∧
      (State.reset.setV 5 0x10).v[(5 : Reg)].toNat > 0xF := by decide

theorem witness_TickCountsDownToZero :
    State.reset.mode ≠ .faulted ∧ waiting.mode ≠ .faulted ∧ State.reset.readable .dt = true ∧
      State.reset.readable .st = true := by decide

theorem witness_LoadResetsTheCore :
    (List.replicate 3584 (0xFF : Byte)).length ≤ 3584 ∧ ([] : List Byte).length ≤ 3584 :=
  ⟨List.length_replicate.le, Nat.zero_le _⟩

theorem witness_OversizedLoadFaults : (List.replicate 3585 (0xFF : Byte)).length > 3584 :=
  (Nat.lt_succ_self 3584).trans_eq List.length_replicate.symm

/-- The premises of the invariants: a state that meets each, and a step from it. -/
theorem witness_StepKeeps :
    State.reset.MemCanonical ∧ State.reset.FontIntact ∧ State.reset.Bounded ∧ ∃ t, step State.reset = .next t := by
  refine ⟨⟨List.Pairwise.nil, by simp [State.reset, State.resetWith]⟩, fun _ _ _ => rfl, ?_, ⟨_, rfl⟩⟩
  exact ⟨rfl, by decide, fun w hw => by rw [(List.mem_replicate.1 hw).2]; decide, by decide, fun _ => by decide⟩

theorem witness_FaultsArePrecise :
    passes (exec .ret State.reset) (fun t => t.fault != State.reset.fault) = true := by decide

theorem witness_GeneralRegisterWriters :
    passes (exec (.addReg 1 2) (regs 0xFF 1 0)) (fun t => t.v[(15 : Reg)] != (regs 0xFF 1 0).v[(15 : Reg)]) = true := by
  decide

/-- A change of each piece of state the statement speaks of. -/
theorem witness_OtherStateWriters :
    passes (exec (.ldI 0x300) State.reset) (fun t => t.i != State.reset.i) = true ∧
      passes (exec (.call 0x300) State.reset) (fun t => t.sp != 0 && t.stack != State.reset.stack) = true ∧
      passes (exec (.ldDtVx 1) (regs 5 0 0)) (fun t => t.dt != 0) = true ∧
      passes (exec (.ldStVx 1) (regs 5 0 0)) (fun t => t.st != 0) = true ∧
      passes (exec (.ldVxK 1) State.reset) (fun t => t.await && t.awaitX != 0) = true ∧
      passes (exec .cls State.reset) (fun t => t.dirty) = true ∧
      passes (exec (.ldMemVx 1) { regs 5 0 0 with i := 0x300 }) (fun t => t.readByte 0x301 != 0) = true ∧
      passes (exec (.rnd 1 0) State.reset) (fun t => t.draws != 0) = true := by decide

/-- Both policies, for `8xy4` the first and the second register it reads, and for a tick an unwritten DT, then an
unwritten ST. -/
theorem witness_UnwrittenReadFaults :
    State.reset.params.resetRegs = .zero ∧ unwritten.params.resetRegs = .unwritten ∧
      (readsOf unwritten.params (.addReg 1 2) = [] ++ .v 1 :: [.v 2] ∧ unwritten.readable (.v 1) = false) ∧
      (readsOf unwritten.params (.addReg 1 2) = [.v 1] ++ .v 2 :: [] ∧
        (unwritten.setV 1 0).readable (.v 1) = true ∧ (unwritten.setV 1 0).readable (.v 2) = false) ∧
      (unwritten.mode ≠ .faulted ∧ unwritten.readable .dt = false) ∧
      ((unwritten.setDT 0).mode ≠ .faulted ∧ (unwritten.setDT 0).readable .dt = true ∧
        (unwritten.setDT 0).readable .st = false) := by decide

/-- Parked at the load address, and at the last address a word can stand. -/
theorem witness_ParkedCoreStaysParked :
    (State.reset.placeWord 0x1200).parkedAt 0x200 ∧
      (({ State.reset with pc := 0xFFE }).placeWord 0x1FFE).parkedAt 0xFFE ∧
      (State.reset.placeWord 0x1200).host = [] := by
  unfold State.parkedAt; decide

end Sys2Proof.Tests
end

/-! SUPPORT. What every instruction leaves unchanged, said once, and the settled statements about the state of 10_state:
its ports and outputs, who writes which piece of it, and the bounds every step keeps. -/
namespace Sys2Proof.Machine

variable {i : Instr} {s t : State}

/-! ### The frame of an instruction

`ExecFrame i s t` lists, per instruction, the fields in which `t` may differ from `s`. Every lemma on who writes a
field is then one case split: the instructions whose frame opens the field, and all others. -/

/-- The fields the instruction may write, and equality in every other one. A fault may be taken in any of them. -/
def ExecFrame : Instr → State → State → Prop
  | .cls, s, t => t = { s with fb := t.fb, dirty := t.dirty, pc := t.pc, fault := t.fault }
  | .ret, s, t => t = { s with sp := t.sp, pc := t.pc, fault := t.fault }
  | .call _, s, t => t = { s with stack := t.stack, sp := t.sp, pc := t.pc, fault := t.fault }
  | .ldI _, s, t | .addI _, s, t | .ldF _, s, t =>
    t = { s with i := t.i, written := t.written, pc := t.pc, fault := t.fault }
  | .rnd _ _, s, t =>
    t = { s with v := t.v, written := t.written, rng := t.rng, draws := t.draws, pc := t.pc, fault := t.fault }
  | .drw _ _ _, s, t =>
    t = { s with fb := t.fb, dirty := t.dirty, v := t.v, written := t.written, pc := t.pc, fault := t.fault }
  | .ldVxK _, s, t => t = { s with await := t.await, awaitX := t.awaitX, pc := t.pc, fault := t.fault }
  | .ldDtVx _, s, t => t = { s with dt := t.dt, written := t.written, pc := t.pc, fault := t.fault }
  | .ldStVx _, s, t => t = { s with st := t.st, written := t.written, pc := t.pc, fault := t.fault }
  | .ldB _, s, t | .ldMemVx _, s, t => t = { s with mem := t.mem, pc := t.pc, fault := t.fault }
  | .jp _, s, t | .jpV0 _, s, t | .seImm _ _, s, t | .sneImm _ _, s, t | .seReg _ _, s, t | .sneReg _ _, s, t
  | .skp _, s, t | .sknp _, s, t => t = { s with pc := t.pc, fault := t.fault }
  | .ldImm _ _, s, t | .addImm _ _, s, t | .ldReg _ _, s, t | .orReg _ _, s, t | .andReg _ _, s, t
  | .xorReg _ _, s, t | .addReg _ _, s, t | .sub _ _, s, t | .shr _ _, s, t | .subn _ _, s, t | .shl _ _, s, t
  | .ldVxDt _, s, t | .ldVxMem _, s, t =>
    t = { s with v := t.v, written := t.written, pc := t.pc, fault := t.fault }

/-- A draw of the random byte changes the random inputs alone (42_register_alu R182). -/
theorem State.consumeByte_eq (s : State) :
    s.consumeByte = { s with rng := s.consumeByte.rng, draws := s.consumeByte.draws } := by
  unfold State.consumeByte; split <;> rfl

theorem execFrame_raiseFault (i : Instr) (s : State) (f : FaultInfo) : ExecFrame i s (s.raiseFault f) := by
  cases i <;> rfl

theorem Completes.frame (h : Completes i s t) : ExecFrame i s t := by
  cases i with
  | ret | call =>
    obtain ⟨-, rfl⟩ := h
    rfl
  | shr | shl | skp | sknp =>
    obtain ⟨a, rfl⟩ := h
    rfl
  | rnd x kk =>
    subst h
    simp only [ExecFrame]
    rw [State.consumeByte_eq]
    rfl
  | ldB | ldMemVx =>
    obtain ⟨-, rfl⟩ := h
    simp only [ExecFrame]
    rw [State.writeBytes_eq]
    rfl
  | ldVxMem x =>
    subst h
    simp only [ExecFrame]
    rw [State.loadRegs_eq]
    rfl
  | _ =>
    subst h
    rfl

/-- An instruction that answers a next state wrote within its frame, whether it completed or faulted. -/
theorem exec_frame (h : exec i s = .next t) : ExecFrame i s t := by
  rcases exec_cases h with ⟨f, rfl⟩ | hc
  · exact execFrame_raiseFault i s f
  · exact hc.frame

/-! ### Who writes each field -/

theorem ExecFrame.params_eq (h : ExecFrame i s t) : t.params = s.params := by
  cases i <;> exact (congrArg State.params h :)

/-- The keypad, the event history and the host operations are inputs or history: no instruction writes them. -/
theorem ExecFrame.inputs_eq (h : ExecFrame i s t) : t.key = s.key ∧ t.events = s.events ∧ t.host = s.host := by
  cases i <;> exact ⟨(congrArg State.key h :), (congrArg State.events h :), (congrArg State.host h :)⟩

theorem ExecFrame.i_writer (h : ExecFrame i s t) (hne : t.i ≠ s.i) :
    (∃ nnn, i = .ldI nnn) ∨ ∃ x, i = .addI x ∨ i = .ldF x := by
  cases i with
  | ldI nnn => exact .inl ⟨nnn, rfl⟩
  | addI x => exact .inr ⟨x, .inl rfl⟩
  | ldF x => exact .inr ⟨x, .inr rfl⟩
  | _ => exact absurd (congrArg State.i h :) hne

theorem ExecFrame.sp_writer (h : ExecFrame i s t) (hne : t.sp ≠ s.sp) : i = .ret ∨ ∃ nnn, i = .call nnn := by
  cases i with
  | ret => exact .inl rfl
  | call nnn => exact .inr ⟨nnn, rfl⟩
  | _ => exact absurd (congrArg State.sp h :) hne

theorem ExecFrame.stack_writer (h : ExecFrame i s t) (hne : t.stack ≠ s.stack) : ∃ nnn, i = .call nnn := by
  cases i with
  | call nnn => exact ⟨nnn, rfl⟩
  | _ => exact absurd (congrArg State.stack h :) hne

theorem ExecFrame.dt_writer (h : ExecFrame i s t) (hne : t.dt ≠ s.dt) : ∃ x, i = .ldDtVx x := by
  cases i with
  | ldDtVx x => exact ⟨x, rfl⟩
  | _ => exact absurd (congrArg State.dt h :) hne

theorem ExecFrame.st_writer (h : ExecFrame i s t) (hne : t.st ≠ s.st) : ∃ x, i = .ldStVx x := by
  cases i with
  | ldStVx x => exact ⟨x, rfl⟩
  | _ => exact absurd (congrArg State.st h :) hne

theorem ExecFrame.await_writer (h : ExecFrame i s t) (hne : t.await ≠ s.await ∨ t.awaitX ≠ s.awaitX) :
    ∃ x, i = .ldVxK x := by
  cases i with
  | ldVxK x => exact ⟨x, rfl⟩
  | _ => exact hne.elim (absurd (congrArg State.await h :)) (absurd (congrArg State.awaitX h :))

theorem ExecFrame.display_writer (h : ExecFrame i s t) (hne : t.fb ≠ s.fb ∨ t.dirty ≠ s.dirty) :
    i = .cls ∨ ∃ x y n, i = .drw x y n := by
  cases i with
  | cls => exact .inl rfl
  | drw x y n => exact .inr ⟨x, y, n, rfl⟩
  | _ => exact hne.elim (absurd (congrArg State.fb h :)) (absurd (congrArg State.dirty h :))

theorem ExecFrame.memory_writer (h : ExecFrame i s t) (hne : ∃ a, t.readByte a ≠ s.readByte a) :
    ∃ x, i = .ldB x ∨ i = .ldMemVx x := by
  obtain ⟨a, ha⟩ := hne
  cases i with
  | ldB x => exact ⟨x, .inl rfl⟩
  | ldMemVx x => exact ⟨x, .inr rfl⟩
  | _ => exact absurd (congrArg (State.readByte · a) h :) ha

theorem ExecFrame.random_writer (h : ExecFrame i s t) (hne : t.rng ≠ s.rng ∨ t.draws ≠ s.draws) :
    ∃ x kk, i = .rnd x kk := by
  cases i with
  | rnd x kk => exact ⟨x, kk, rfl⟩
  | _ => exact hne.elim (absurd (congrArg State.rng h :)) (absurd (congrArg State.draws h :))

/-- Settles O53: each clause is the lemma on who writes that field, read off the instruction's frame. -/
theorem otherStateWriters : Obligations.OtherStateWriters := by
  intro i s t h
  have hf : ExecFrame i s t := exec_frame h
  exact ⟨hf.i_writer, hf.sp_writer, hf.stack_writer, hf.dt_writer, hf.st_writer, hf.await_writer,
    hf.display_writer, hf.memory_writer, hf.random_writer, hf.inputs_eq⟩

/-! ### Who writes a general register (10_state R22) -/

/-- A register the instruction does not name as a destination keeps its value. -/
theorem Completes.v_eq {r : Reg} (h : Completes i s t) (hr : ¬ mayWriteV i r) : t.v[r] = s.v[r] := by
  cases i with
  | ldImm x _ | addImm x _ | ldReg x _ | orReg x _ | andReg x _ | xorReg x _ | ldVxDt x =>
    subst h
    exact (s.setV_get x r _).trans (if_neg hr)
  | rnd x _ =>
    subst h
    rw [State.consumeByte_eq]
    exact (State.setV_get _ x r _).trans (if_neg hr)
  | addReg x _ | sub x _ | subn x _ =>
    obtain ⟨hx, hF⟩ := not_or.1 hr
    subst h
    rw [(regsWritten_setV_setFlag s x _ _).v, if_neg hF, if_neg hx]
    rfl
  | shr x _ | shl x _ =>
    obtain ⟨hx, hF⟩ := not_or.1 hr
    obtain ⟨a, rfl⟩ := h
    rw [(regsWritten_setV_setFlag s x _ _).v, if_neg hF, if_neg hx]
    rfl
  | drw x y n =>
    subst h
    exact (State.setV_get _ vf r _).trans (if_neg hr)
  | ldVxMem x =>
    subst h
    exact (s.loadRegs_v (blockRegs x) r).trans (if_neg (mt mem_blockRegs.1 hr))
  | _ => exact (congrArg (fun u : State => u.v[r]) h.frame :)

/-- Settles O52: a fault leaves every register, and a completed instruction those it does not name. -/
theorem generalRegisterWriters : Obligations.GeneralRegisterWriters := by
  intro i s t r h hne
  rcases exec_cases h with ⟨f, rfl⟩ | hc
  · exact absurd rfl hne
  · by_contra hr
    exact hne (hc.v_eq hr)

/-! ### The parameters and the control registers through the other operations -/

/-- `t` holds the parameters, I, pc and the call stack of `s`. -/
structure SameControl (s t : State) : Prop where
  params : t.params = s.params
  i : t.i = s.i
  pc : t.pc = s.pc
  sp : t.sp = s.sp
  stack : t.stack = s.stack

theorem sameControl_raiseFault (s : State) (f : FaultInfo) : SameControl s (s.raiseFault f) :=
  ⟨rfl, rfl, rfl, rfl, rfl⟩

theorem sameControl_keyPoll (s : State) : SameControl s s.keyPoll := by
  unfold State.keyPoll
  split <;> exact ⟨rfl, rfl, rfl, rfl, rfl⟩

theorem sameControl_tickDT (s : State) (d : Byte) : SameControl s (s.tickDT d) := by
  unfold State.tickDT
  split <;> exact ⟨rfl, rfl, rfl, rfl, rfl⟩

theorem sameControl_tickST (s : State) (d : Byte) : SameControl s (s.tickST d) := by
  unfold State.tickST
  split <;> exact ⟨rfl, rfl, rfl, rfl, rfl⟩

theorem sameControl_keySet (s : State) (k : Fin 16) (b : Bool) : SameControl s (s.keySet k b) :=
  ⟨rfl, rfl, rfl, rfl, rfl⟩

theorem sameControl_presentAck (s : State) : SameControl s s.presentAck := ⟨rfl, rfl, rfl, rfl, rfl⟩

/-- A load, of an image that fits or of one that does not, gives the control registers their reset values. -/
theorem sameControl_load (s : State) (bytes : List Byte) :
    SameControl (State.resetWith s.params) (s.load bytes) := by
  unfold State.load
  split <;> exact ⟨rfl, rfl, rfl, rfl, rfl⟩

theorem sameControl_nextOp (s : State) : SameControl s s.nextOp.2 := by
  rw [State.nextOp_state]
  exact ⟨rfl, rfl, rfl, rfl, rfl⟩

theorem SameControl.trans {u : State} (h : SameControl s t) (k : SameControl t u) : SameControl s u :=
  ⟨k.params.trans h.params, k.i.trans h.i, k.pc.trans h.pc, k.sp.trans h.sp, k.stack.trans h.stack⟩

/-- What a port operation does to the control registers: nothing, unless it completes an instruction, reports a word,
or loads. -/
theorem Acts.control_cases {op : PortOp} (h : Acts s op t) :
    SameControl s t ∨ (s.pc.toNat ≤ 0xFFE ∧ ∃ i, Completes i s t) ∨
      (s.pc.toNat ≤ 0xFFE ∧ ∃ w, t = s.reportUnrecognized w) ∨ SameControl (State.resetWith s.params) t := by
  cases h with
  | faults _ f _ => exact .inl (sameControl_raiseFault s f)
  | polls _ => exact .inl (sameControl_keyPoll s)
  | ticks _ => exact .inl ((sameControl_tickDT s s.dt).trans (sameControl_tickST _ s.st))
  | sets k b => exact .inl (sameControl_keySet s k b)
  | acknowledges => exact .inl (sameControl_presentAck s)
  | completes w i _ _ range _ _ hc => exact .inr (.inl ⟨range, i, hc⟩)
  | reports w _ range => exact .inr (.inr (.inl ⟨range, w, rfl⟩))
  | loads bytes => exact .inr (.inr (.inr (sameControl_load s bytes)))

theorem Acts.params_eq {op : PortOp} (h : Acts s op t) : t.params = s.params := by
  rcases h.control_cases with hsame | ⟨-, i, hc⟩ | ⟨-, w, rfl⟩ | hreset
  · exact hsame.params
  · exact hc.frame.params_eq
  · rfl
  · exact hreset.params

/-- Settles O50: no port operation writes a parameter, and neither does taking it off the line. -/
theorem stepKeepsParameters : Obligations.StepKeepsParameters := by
  intro s t h
  exact (step_cases h).params_eq.trans (sameControl_nextOp s).params

/-! ### The bounds through one completed instruction (10_state R26, R29, R30) -/

theorem State.Bounded.of_sameControl (h : s.Bounded) (hc : SameControl s t) : t.Bounded where
  stackLength := by rw [hc.stack, hc.params]; exact h.stackLength
  spBound := by rw [hc.sp, hc.params]; exact h.spBound
  stackBound := by rw [hc.stack]; exact h.stackBound
  pcBound := by rw [hc.pc]; exact h.pcBound
  iBound := by rw [hc.params, hc.i]; exact h.iBound

theorem addr12_toNat_le (nnn : Addr12) : (nnn.setWidth 16).toNat ≤ 0xFFF := by
  have := nnn.isLt
  rw [BitVec.toNat_setWidth]
  omega

/-- The next instruction in sequence of one that was fetched is at most at 0x1000 (R29). -/
theorem State.npc_toNat_le (hpc : s.pc.toNat ≤ 0xFFE) : (s.pc + 2).toNat ≤ 0x1000 := by
  rw [BitVec.toNat_add]
  show (s.pc.toNat + 2) % 65536 ≤ _
  omega

theorem State.skipIf_pc_le (hpc : s.pc.toNat ≤ 0xFFE) (c : Bool) : (s.skipIf c).pc.toNat ≤ 0x10FE := by
  have hnext : (s.pc + 2).toNat ≤ 0x1000 := State.npc_toNat_le hpc
  rw [State.skipIf_eq, State.setPc_pc]
  split
  · rw [BitVec.toNat_add]
    show ((s.pc + 2).toNat + 2) % 65536 ≤ _
    omega
  · omega

theorem State.Bounded.stackTop_le (h : s.Bounded) : s.stackTop.toNat ≤ 0x1000 := by
  unfold State.stackTop
  rw [List.getD_eq_getElem?_getD]
  cases he : s.stack[s.sp - 1]? with
  | none => exact Nat.zero_le _
  | some w => exact h.stackBound w (List.mem_of_getElem? he)

theorem Completes.stack_length (h : Completes i s t) : t.stack.length = s.stack.length := by
  by_cases he : t.stack = s.stack
  · rw [he]
  · obtain ⟨nnn, rfl⟩ := h.frame.stack_writer he
    obtain ⟨-, rfl⟩ := h
    exact List.length_set

theorem Completes.stack_le (h : Completes i s t) (hs : s.Bounded) (hpc : s.pc.toNat ≤ 0xFFE) :
    ∀ w ∈ t.stack, w.toNat ≤ 0x1000 := by
  intro w hw
  by_cases he : t.stack = s.stack
  · exact hs.stackBound w (he ▸ hw)
  · obtain ⟨nnn, rfl⟩ := h.frame.stack_writer he
    obtain ⟨-, rfl⟩ := h
    rcases List.mem_or_eq_of_mem_set hw with hold | rfl
    · exact hs.stackBound w hold
    · exact State.npc_toNat_le hpc

theorem Completes.sp_le (h : Completes i s t) (hs : s.Bounded) : t.sp ≤ s.params.stackDepth := by
  have hsp : s.sp ≤ s.params.stackDepth := hs.spBound
  by_cases he : t.sp = s.sp
  · rwa [he]
  · rcases h.frame.sp_writer he with rfl | ⟨nnn, rfl⟩
    · obtain ⟨-, rfl⟩ := h
      exact (Nat.sub_le _ _).trans hsp
    · obtain ⟨hfull, rfl⟩ := h
      exact Nat.lt_of_le_of_ne hsp hfull

/-- The largest `pc` is that of Bnnn; a return address, a skip and the next instruction stay below it. -/
theorem Completes.pc_le (h : Completes i s t) (hs : s.Bounded) (hpc : s.pc.toNat ≤ 0xFFE) :
    t.pc.toNat ≤ 0x10FE := by
  have hnext : (s.pc + 2).toNat ≤ 0x10FE := (State.npc_toNat_le hpc).trans (by decide)
  cases i with
  | ret =>
    obtain ⟨-, rfl⟩ := h
    exact hs.stackTop_le.trans (by decide)
  | jp nnn =>
    subst h
    exact (addr12_toNat_le nnn).trans (by decide)
  | call nnn =>
    obtain ⟨-, rfl⟩ := h
    exact (addr12_toNat_le nnn).trans (by decide)
  | jpV0 nnn =>
    subst h
    have := nnn.isLt
    have := s.v[(0 : Reg)].isLt
    rw [State.setPc_pc, BitVec.toNat_ofNat]
    omega
  | seImm | sneImm | seReg | sneReg =>
    subst h
    exact State.skipIf_pc_le hpc _
  | skp | sknp =>
    obtain ⟨c, rfl⟩ := h
    exact State.skipIf_pc_le hpc c
  | shr | shl =>
    obtain ⟨a, rfl⟩ := h
    exact hnext
  | rnd x kk =>
    subst h
    rw [State.consumeByte_eq]
    exact hnext
  | ldB | ldMemVx =>
    obtain ⟨-, rfl⟩ := h
    rw [State.writeBytes_eq]
    exact hnext
  | ldVxMem x =>
    subst h
    rw [State.loadRegs_eq]
    exact hnext
  | _ =>
    subst h
    exact hnext

theorem Completes.i_le (h : Completes i s t) (hs : s.Bounded) (hwrap : s.params.iAddWrap = .w4096) :
    t.i.toNat ≤ 0xFFF := by
  by_cases he : t.i = s.i
  · rw [he]
    exact hs.iBound hwrap
  · rcases h.frame.i_writer he with ⟨nnn, rfl⟩ | ⟨x, rfl | rfl⟩
    · subst h
      exact addr12_toNat_le nnn
    · subst h
      show (BitVec.ofNat 16 (_ % modulus s.params.iAddWrap)).toNat ≤ _
      rw [hwrap, BitVec.toNat_ofNat, modulus]
      omega
    · subst h
      have hx : s.v[x].toNat < 256 := s.v[x].isLt
      show (BitVec.ofNat 16 (s.v[x].toNat * 5)).toNat ≤ _
      rw [BitVec.toNat_ofNat]
      exact (Nat.mod_le _ _).trans (by omega)

/-- An instruction fetched inside memory keeps the bounds. -/
theorem Completes.bounded (h : Completes i s t) (hs : s.Bounded) (hpc : s.pc.toNat ≤ 0xFFE) : t.Bounded where
  stackLength := by rw [h.stack_length, h.frame.params_eq]; exact hs.stackLength
  spBound := by rw [h.frame.params_eq]; exact h.sp_le hs
  stackBound := h.stack_le hs hpc
  pcBound := h.pc_le hs hpc
  iBound := by rw [h.frame.params_eq]; exact h.i_le hs

theorem State.Bounded.reportUnrecognized (hs : s.Bounded) (hpc : s.pc.toNat ≤ 0xFFE) (w : Word) :
    (s.reportUnrecognized w).Bounded where
  stackLength := hs.stackLength
  spBound := hs.spBound
  stackBound := hs.stackBound
  pcBound := (State.npc_toNat_le hpc).trans (by decide)
  iBound := hs.iBound

/-! ### Reset, and every step -/

/-- The bounds hold after reset, whatever the parameters are. -/
theorem resetWith_bounded (p : Config.Params) : (State.resetWith p).Bounded where
  stackLength := List.length_replicate
  spBound := Nat.zero_le _
  stackBound w hw := by rw [(List.mem_replicate.1 hw).2]; decide
  pcBound := by show resetPc.toNat ≤ _; decide
  iBound _ := by show resetWord.toNat ≤ _; decide

theorem Acts.bounded {op : PortOp} (h : Acts s op t) (hs : s.Bounded) : t.Bounded := by
  rcases h.control_cases with hsame | ⟨hpc, i, hc⟩ | ⟨hpc, w, rfl⟩ | hreset
  · exact hs.of_sameControl hsame
  · exact hc.bounded hs hpc
  · exact hs.reportUnrecognized hpc w
  · exact (resetWith_bounded s.params).of_sameControl hreset

/-- Settles O48: the five bounds are inductive together. A pushed return address follows a fetch, so it is at most
0x1000; the largest `pc` is that of Bnnn; a load starts again from reset. -/
theorem stepKeepsRegistersBounded : Obligations.StepKeepsRegistersBounded := by
  intro s t hs h
  exact (step_cases h).bounded (hs.of_sameControl (sameControl_nextOp s))

/-- With no program loaded every address reads as the reset contents (20_memory R62, R63). -/
@[simp] theorem resetWith_readByte (p : Config.Params) (a : Nat) :
    (State.resetWith p).readByte a = memBase p.font a := rfl

theorem resetWith_memCanonical (p : Config.Params) : (State.resetWith p).MemCanonical :=
  ⟨List.Pairwise.nil, fun _ h => absurd h List.not_mem_nil⟩

theorem resetWith_fontIntact (p : Config.Params) : (State.resetWith p).FontIntact :=
  fun _ a _ => resetWith_readByte p a

/-- Settles O49: each invariant holds after reset under any parameters, the default ones among them. -/
theorem resetMeetsInvariants : Obligations.ResetMeetsInvariants :=
  ⟨resetWith_memCanonical defaultParams, resetWith_fontIntact defaultParams, resetWith_bounded defaultParams⟩

theorem resetWith_mode (p : Config.Params) : (State.resetWith p).mode = .running :=
  State.mode_eq_running.2 ⟨rfl, rfl⟩

/-- In Running mode the `step` port executes one instruction (40_cycle R120). -/
theorem act_step_of_running (h : s.mode = .running) : act .step s = executeOne s := by
  simp only [act, stepPort, h]

/-- Settles O45: `pc` is below the end of memory, so the fetch reads the two bytes there, and the mode is Running. -/
theorem resetState : Obligations.ResetState := by
  have hpc : State.reset.pc.toNat ≤ 0xFFE := by decide
  have hmode : State.reset.mode = .running := resetWith_mode defaultParams
  exact ⟨resetWith_readByte defaultParams, rfl, hmode, State.fetch_ok hpc, act_step_of_running hmode⟩

/-! ### Ports and outputs (10_state R34, R37, R43 to R46) -/

/-- Settles O41: the two ports are one field's update each, and no mode is tested. -/
theorem keySetAndPresentAck : Obligations.KeySetAndPresentAck := by
  intro s k b
  exact ⟨rfl, rfl⟩

/-- The cause a code 1..9 stands for (60_exceptions R260). -/
def causeOfCode (n : BitVec 4) : FaultCause :=
  [.fetchOutOfRange, .readOutOfRange, .writeOutOfRange, .stackOverflow, .stackUnderflow, .keyIndexOutOfRange,
    .fontRegionWrite, .loadTooLarge].getD (n.toNat - 1) .unwrittenRead

theorem causeOfCode_code (c : FaultCause) : causeOfCode c.code = c := by
  cases c <;> rfl

theorem FaultCause.code_injective : Function.Injective FaultCause.code :=
  Function.LeftInverse.injective causeOfCode_code

theorem FaultCause.code_ne_zero (c : FaultCause) : c.code ≠ 0 := by
  cases c <;> decide

theorem State.faultCode_eq_zero : s.faultCode = 0 ↔ s.fault.cause = none := by
  unfold State.faultCode
  cases s.fault.cause with
  | none => exact iff_of_true rfl rfl
  | some c => exact iff_of_false c.code_ne_zero nofun

/-- The fault port shows the code of a cause exactly when that is the cause: no two causes share a code. -/
theorem State.faultCode_eq_code (c : FaultCause) : s.faultCode = c.code ↔ s.fault.cause = some c := by
  unfold State.faultCode
  cases s.fault.cause with
  | none => exact iff_of_false c.code_ne_zero.symm nofun
  | some d => exact FaultCause.code_injective.eq_iff.trans (Option.some_inj).symm

theorem State.soundActive_iff : s.soundActive = true ↔ s.st.toNat > 0 := by
  rw [State.soundActive, bne_iff_ne, gt_iff_lt, Nat.pos_iff_ne_zero, ne_eq, ne_eq, ← BitVec.toNat_inj]
  rfl

/-- A coordinate query wraps at the size of the grid. -/
theorem fin_ofNat_add_mul (n : Nat) [NeZero n] (X : Fin n) (j : Nat) : Fin.ofNat n (X.val + n * j) = X := by
  apply Fin.ext
  rw [Fin.val_ofNat, Nat.add_mul_mod_self_left, Nat.mod_eq_of_lt X.isLt]

theorem State.fbRead_wraps (s : State) (X : Fin 64) (Y : Fin 32) (j k : Nat) :
    s.fbRead (X.val + 64 * j) (Y.val + 32 * k) = s.fb[X][Y] := by
  show pixel s.fb (Fin.ofNat 64 (X.val + 64 * j)) (Fin.ofNat 32 (Y.val + 32 * k)) = pixel s.fb X Y
  rw [fin_ofNat_add_mul 64 X j, fin_ofNat_add_mul 32 Y k]

/-- Settles O42: the modes are `State.mode_eq_*`, and the nine codes are one injective function of the cause. -/
theorem modeAndOutputsFollowState : Obligations.ModeAndOutputsFollowState := by
  intro s
  exact ⟨State.mode_eq_faulted, State.mode_eq_awaitingKey, State.mode_eq_running, State.faultCode_eq_zero,
    State.faultCode_eq_code .fetchOutOfRange, State.faultCode_eq_code .readOutOfRange,
    State.faultCode_eq_code .writeOutOfRange, State.faultCode_eq_code .stackOverflow,
    State.faultCode_eq_code .stackUnderflow, State.faultCode_eq_code .keyIndexOutOfRange,
    State.faultCode_eq_code .fontRegionWrite, State.faultCode_eq_code .loadTooLarge,
    State.faultCode_eq_code .unwrittenRead, State.soundActive_iff, s.fbRead_wraps⟩

end Sys2Proof.Machine

/-! SUPPORT. What every step does to memory, said once, and the settled statements about memory and the fetch of
20_memory. -/
namespace Sys2Proof.Machine

variable {i : Instr} {s t : State}

/-! ### Fetch (20_memory R69) -/

theorem joinWord_toNat (hi lo : Byte) : (joinWord hi lo).toNat = hi.toNat * 256 + lo.toNat := by
  have := hi.isLt
  have := lo.isLt
  rw [joinWord, BitVec.toNat_ofNat]
  exact Nat.mod_eq_of_lt (by omega)

/-- With `pc` above the end of memory the high byte is out of range. -/
theorem State.fetch_above (h : s.pc.toNat > 0xFFF) : s.fetch = .error ⟨.fetchOutOfRange, s.pc.toNat⟩ := by
  simp only [State.fetch, checkFetch, if_pos h, checked_error_bind]

/-- With `pc` on the last byte of memory the low byte is out of range. -/
theorem State.fetch_at_end (h : s.pc.toNat = 0xFFF) : s.fetch = .error ⟨.fetchOutOfRange, 0x1000⟩ := by
  simp [State.fetch, checkFetch, h]

/-- A fetch that faults executes nothing: the step takes the fault and is over. -/
theorem act_step_of_fetch_error {f : FaultInfo} (hm : s.mode = .running) (hf : s.fetch = .error f) :
    act .step s = .next (s.raiseFault f) := by
  rw [act_step_of_running hm]
  simp only [executeOne, hf]

/-- Settles O8: the two checks of a fetch fail one by one, and a fault of either is the whole step. -/
theorem fetchIsBigEndianOrFaults : Obligations.FetchIsBigEndianOrFaults := by
  intro s hm
  refine ⟨fun hpc => ⟨_, State.fetch_ok hpc, joinWord_toNat _ _⟩, fun hpc => ?_, fun hpc => ?_⟩
  · exact act_step_of_fetch_error hm (State.fetch_above hpc)
  · exact act_step_of_fetch_error hm (State.fetch_at_end hpc)

/-! ### Block stores (43_index_memory R194) -/

theorem checkWrite_of_writableAddr {p : Config.Params} {a : Nat} (h : WritableAddr p a) :
    checkWrite p.fontWritePolicy a = .ok () :=
  checkWrite_ok h.1 h.2

/-- `s` with V0..Vx stored from `I` on, before `pc` moves. -/
def State.storeBlock (s : State) (x : Reg) : State := s.writeBytes (s.ea 0) ((blockRegs x).map fun k => s.v[k])

theorem State.storeBlock_pc (s : State) (x : Reg) : (s.storeBlock x).pc = s.pc := by
  rw [State.storeBlock, State.writeBytes_eq]

/-- Each register of a stored block reads back at its own address. -/
theorem State.readByte_storeBlock {x k : Reg} (h : k ≤ x) : (s.storeBlock x).readByte (s.ea k.val) = s.v[k] := by
  have hfrom : s.ea 0 ≤ s.ea k.val := Nat.add_le_add_left (Nat.zero_le _) _
  have hoffset : s.ea k.val - s.ea 0 = k.val := Nat.add_sub_cancel_left _ _
  rw [State.storeBlock, State.readByte_writeBytes, if_pos hfrom, hoffset, List.getD_eq_getElem?_getD,
    List.getElem?_map, blockRegs_getElem?, if_pos h]
  rfl

/-- A block store whose registers are readable and whose addresses are writable completes. -/
theorem exec_ldMemVx_ok {x : Reg} (hi : s.readable .i = true) (hv : ∀ k ≤ x, s.readable (.v k) = true)
    (hw : ∀ k ≤ x, WritableAddr s.params (s.ea k.val)) :
    exec (.ldMemVx x) s = .next (s.storeBlock x).advance := by
  have hread : s.readRegs (blockRegs x) = .ok ((blockRegs x).map fun k => s.v[k]) :=
    State.readRegs_ok fun k hk => hv k (mem_blockRegs.1 hk)
  have hcheck : checkRange (checkWrite s.params.fontWritePolicy) (s.ea 0) (x.val + 1) = .ok () := by
    refine checkRange_eq_ok.2 fun k hk => checkWrite_of_writableAddr ?_
    exact hw ⟨k, by omega⟩ (Fin.le_def.2 (Nat.le_of_lt_succ hk))
  simp only [exec, execLdMemVx, State.readI_ok hi, hread, hcheck, checked_ok_bind, State.settle_ok, State.storeBlock]

/-- Settles O32: V0 and V1 stand at `I` and `I + 1`, which are the two bytes at the next `pc`. -/
theorem storeIsSeenByNextFetch : Obligations.StoreIsSeenByNextFetch := by
  intro x s hx hi hv hw hnext
  have h1 : (1 : Reg) ≤ x := hx
  have hpc : (s.storeBlock x).advance.pc = s.i := by
    rw [hnext, ← s.storeBlock_pc x]
    rfl
  have hlast : s.i.toNat + 1 ≤ 0xFFF := (hw 1 h1).1
  have hrange : (s.storeBlock x).advance.pc.toNat ≤ 0xFFE := by
    rw [hpc]
    omega
  refine ⟨_, _, exec_ldMemVx_ok hi hv hw, State.fetch_ok hrange, ?_⟩
  have hhi : (s.storeBlock x).advance.readByte s.i.toNat = s.v[(0 : Reg)] :=
    State.readByte_storeBlock (Fin.zero_le x)
  have hlo : (s.storeBlock x).advance.readByte (s.i.toNat + 1) = s.v[(1 : Reg)] := State.readByte_storeBlock h1
  rw [joinWord_toNat, hpc, hhi, hlo]

/-! ### What an operation does to memory

Two states with one memory and one FONT read alike. An operation leaves memory, stores bytes that passed their checks,
or loads an image; both invariants of memory are one case split over these. -/

/-- `t` holds the memory of `s`, and the parameters an unlisted address is read by. -/
structure SameMemory (s t : State) : Prop where
  params : t.params = s.params
  mem : t.mem = s.mem

theorem SameMemory.readByte_eq (h : SameMemory s t) (a : Nat) : t.readByte a = s.readByte a := by
  unfold State.readByte
  rw [h.params, h.mem]

theorem State.MemCanonical.of_sameMemory (hs : s.MemCanonical) (h : SameMemory s t) : t.MemCanonical := by
  unfold State.MemCanonical
  rw [h.params, h.mem]
  exact hs

theorem State.FontIntact.of_sameMemory (hs : s.FontIntact) (h : SameMemory s t) : t.FontIntact := by
  intro hp a ha
  rw [h.readByte_eq, h.params]
  exact hs (h.params ▸ hp) a ha

theorem sameMemory_keyPoll (s : State) : SameMemory s s.keyPoll := by
  refine ⟨(sameControl_keyPoll s).params, ?_⟩
  unfold State.keyPoll
  split <;> rfl

theorem sameMemory_tick (s : State) (d e : Byte) : SameMemory s ((s.tickDT d).tickST e) := by
  refine ⟨((sameControl_tickDT s d).trans (sameControl_tickST _ e)).params, ?_⟩
  unfold State.tickST State.tickDT
  split <;> split <;> rfl

theorem sameMemory_nextOp (s : State) : SameMemory s s.nextOp.2 := by
  rw [State.nextOp_state]
  exact ⟨rfl, rfl⟩

theorem State.load_mem_of_fits {bytes : List Byte} (h : imageFits bytes = true) :
    (s.load bytes).mem = imageCells s.params.font loadAddress bytes := by
  rw [State.load, if_pos h]

/-- An image that is too long leaves memory as it was (70 R292). -/
theorem sameMemory_load_of_not_fits {bytes : List Byte} (h : ¬ imageFits bytes = true) :
    SameMemory s (s.load bytes) := by
  rw [State.load, if_neg h]
  exact ⟨rfl, rfl⟩

/-- A non-empty range whose writes pass lies in memory, and above the font region where writes to it fault. -/
theorem writable_range {p : Config.FontWritePolicy} {a n : Nat}
    (h : checkRange (checkWrite p) a (n + 1) = .ok ()) : a + (n + 1) ≤ memSize ∧ (p = .fault → fontEnd ≤ a) := by
  have hall := checkRange_eq_ok.1 h
  have hlast : a + n ≤ 0xFFF := (checkWrite_eq_ok (hall n (by omega))).1
  refine ⟨?_, (checkWrite_eq_ok (hall 0 (by omega))).2⟩
  unfold memSize
  omega

/-- `t` holds the memory of `s` after a store of bytes inside memory, above the font region where writes to it
fault. -/
def Stores (s t : State) : Prop :=
  ∃ a bs, a + bs.length ≤ memSize ∧ (s.params.fontWritePolicy = .fault → fontEnd ≤ a) ∧
    SameMemory (s.writeBytes a bs) t

/-- A completed instruction leaves memory, or stores bytes that passed their checks. -/
theorem Completes.memory_cases (h : Completes i s t) : SameMemory s t ∨ Stores s t := by
  cases i with
  | ldB x =>
    obtain ⟨hcheck, rfl⟩ := h
    obtain ⟨hrange, hfont⟩ := writable_range hcheck
    exact .inr ⟨s.ea 0, bcdDigits s.v[x], hrange, hfont, rfl, rfl⟩
  | ldMemVx x =>
    obtain ⟨hcheck, rfl⟩ := h
    obtain ⟨hrange, hfont⟩ := writable_range hcheck
    refine .inr ⟨s.ea 0, (blockRegs x).map fun k => s.v[k], ?_, hfont, rfl, rfl⟩
    rw [List.length_map, blockRegs_length]
    exact hrange
  | _ => exact .inl ⟨h.frame.params_eq, (congrArg State.mem h.frame :)⟩

/-- What a port operation does to memory: nothing, unless it completes a store or loads an image that fits. -/
theorem Acts.memory_cases {op : PortOp} (h : Acts s op t) :
    SameMemory s t ∨ Stores s t ∨ ∃ bytes, imageFits bytes = true ∧ t = s.load bytes := by
  cases h with
  | completes w i _ _ _ _ _ hc => exact hc.memory_cases.imp_right .inl
  | polls _ => exact .inl (sameMemory_keyPoll s)
  | ticks _ => exact .inl (sameMemory_tick s s.dt s.st)
  | faults | reports | sets | acknowledges => exact .inl ⟨rfl, rfl⟩
  | loads bytes =>
    by_cases hfit : imageFits bytes = true
    · exact .inr (.inr ⟨bytes, hfit, rfl⟩)
    · exact .inl (sameMemory_load_of_not_fits hfit)

/-! ### The canonical form of memory -/

theorem Stores.memCanonical (h : Stores s t) (hs : s.MemCanonical) : t.MemCanonical := by
  obtain ⟨a, bs, hrange, -, hsame⟩ := h
  have hstored : (s.writeBytes a bs).MemCanonical := State.writeBytes_wf hrange hs
  exact hstored.of_sameMemory hsame

theorem State.load_memCanonical {bytes : List Byte} (h : imageFits bytes = true) : (s.load bytes).MemCanonical := by
  have hlen : bytes.length ≤ 3584 := of_decide_eq_true h
  unfold State.MemCanonical
  rw [State.load_mem_of_fits h, (sameControl_load s bytes).params]
  refine imageCells_wf s.params.font ?_
  unfold loadAddress memSize
  omega

theorem Acts.memCanonical {op : PortOp} (h : Acts s op t) (hs : s.MemCanonical) : t.MemCanonical := by
  rcases h.memory_cases with hsame | hstores | ⟨bytes, hfit, rfl⟩
  · exact hs.of_sameMemory hsame
  · exact hstores.memCanonical hs
  · exact State.load_memCanonical hfit

/-- Settles O46: a store is checked to lie inside memory before it writes, and an image that fits is canonical from
the start. -/
theorem stepKeepsMemoryCanonical : Obligations.StepKeepsMemoryCanonical := by
  intro s t hs h
  exact (step_cases h).memCanonical (hs.of_sameMemory (sameMemory_nextOp s))

/-! ### The font region (20_memory R62, R67) -/

theorem Stores.fontIntact (h : Stores s t) (hs : s.FontIntact) : t.FontIntact := by
  obtain ⟨a, bs, -, hfont, hsame⟩ := h
  have hparams : (s.writeBytes a bs).params = s.params := by rw [State.writeBytes_eq]
  have hstored : (s.writeBytes a bs).FontIntact := by
    intro hp b hb
    rw [hparams] at hp ⊢
    have hbelow : ¬ a ≤ b := Nat.not_le.2 (hb.trans_le (hfont hp))
    rw [State.readByte_writeBytes, if_neg hbelow]
    exact hs hp b hb
  exact hstored.of_sameMemory hsame

/-- A loaded image starts above the font region (70 R291). -/
theorem State.load_fontIntact {bytes : List Byte} (h : imageFits bytes = true) : (s.load bytes).FontIntact := by
  intro _ b hb
  have hbelow : ¬ loadAddress ≤ b := by
    unfold loadAddress
    omega
  unfold State.readByte
  rw [State.load_mem_of_fits h, (sameControl_load s bytes).params]
  exact (memLookup_imageCells s.params.font loadAddress b bytes).trans (if_neg hbelow)

theorem Acts.fontIntact {op : PortOp} (h : Acts s op t) (hs : s.FontIntact) : t.FontIntact := by
  rcases h.memory_cases with hsame | hstores | ⟨bytes, hfit, rfl⟩
  · exact hs.of_sameMemory hsame
  · exact hstores.fontIntact hs
  · exact State.load_fontIntact hfit

/-- Settles O47: where writes to the font region fault, a store that passes its checks starts above it, and so does
an image. -/
theorem stepKeepsFontIntact : Obligations.StepKeepsFontIntact := by
  intro s t hs h
  exact (step_cases h).fontIntact (hs.of_sameMemory (sameMemory_nextOp s))

end Sys2Proof.Machine

/-! SUPPORT. The words of the formats against the fields the decoder cuts, and the settled statements about the decoder
and the encoder of 30_encoding. -/
namespace Sys2Proof.Laws

variable {w : Word} {i : Instr} {op : Nat}

/-! ### The fields of a word (30_encoding R91) -/

theorem opOf_lt (w : Word) : opOf w < 16 := by
  have := w.isLt
  unfold opOf
  omega

theorem xOf_val (w : Word) : (xOf w).val = w.toNat / 256 % 16 := rfl

theorem yOf_val (w : Word) : (yOf w).val = w.toNat / 16 % 16 := rfl

theorem nOf_val (w : Word) : (nOf w).val = w.toNat % 16 := rfl

theorem kkOf_toNat (w : Word) : (kkOf w).toNat = w.toNat % 256 := rfl

theorem nnnOf_toNat (w : Word) : (nnnOf w).toNat = w.toNat % 4096 := rfl

/-! ### A word of a format has the fields it was made of (30_encoding R92) -/

theorem opOf_fmtNNN (h : op < 16) (nnn : Addr12) : opOf (fmtNNN op nnn) = op := by
  have := nnn.isLt
  rw [opOf, fmtNNN_toNat h]
  omega

theorem nnnOf_fmtNNN (h : op < 16) (nnn : Addr12) : nnnOf (fmtNNN op nnn) = nnn := by
  apply BitVec.eq_of_toNat_eq
  have := nnn.isLt
  rw [nnnOf_toNat, fmtNNN_toNat h]
  omega

theorem opOf_fmtXKK (h : op < 16) (x : Reg) (kk : Byte) : opOf (fmtXKK op x kk) = op := by
  have := kk.isLt
  rw [opOf, fmtXKK_toNat h]
  omega

theorem xOf_fmtXKK (h : op < 16) (x : Reg) (kk : Byte) : xOf (fmtXKK op x kk) = x := by
  apply Fin.ext
  have := kk.isLt
  rw [xOf_val, fmtXKK_toNat h]
  omega

theorem kkOf_fmtXKK (h : op < 16) (x : Reg) (kk : Byte) : kkOf (fmtXKK op x kk) = kk := by
  apply BitVec.eq_of_toNat_eq
  have := kk.isLt
  rw [kkOf_toNat, fmtXKK_toNat h]
  omega

theorem opOf_nibbles (h : op < 16) (x y n : Fin 16) : opOf (nibbles op x y n) = op := by
  rw [opOf, nibbles_toNat h x.isLt y.isLt n.isLt]
  omega

theorem xOf_nibbles (h : op < 16) (x y n : Fin 16) : xOf (nibbles op x y n) = x := by
  apply Fin.ext
  rw [xOf_val, nibbles_toNat h x.isLt y.isLt n.isLt]
  omega

theorem yOf_nibbles (h : op < 16) (x y n : Fin 16) : yOf (nibbles op x y n) = y := by
  apply Fin.ext
  rw [yOf_val, nibbles_toNat h x.isLt y.isLt n.isLt]
  omega

theorem nOf_nibbles (h : op < 16) (x y n : Fin 16) : nOf (nibbles op x y n) = n := by
  apply Fin.ext
  rw [nOf_val, nibbles_toNat h x.isLt y.isLt n.isLt]
  omega

/-- Two low nibbles are one low byte: the words of classes E and F are of format XKK, the sub-opcode as `kk`. -/
theorem nibbles_eq_fmtXKK {c d : Nat} (h : c * 16 + d < 256) (x : Reg) :
    nibbles op x c d = fmtXKK op x (BitVec.ofNat 8 (c * 16 + d)) := by
  rw [nibbles, fmtXKK, BitVec.toNat_ofNat, Nat.mod_eq_of_lt h, Nat.add_assoc]

/-! ### A word is the word of its fields -/

theorem fmtNNN_fields (h : opOf w = op) : fmtNNN op (nnnOf w) = w := by
  subst h
  apply BitVec.eq_of_toNat_eq
  rw [fmtNNN_toNat (opOf_lt w), opOf, nnnOf_toNat]
  omega

theorem fmtXKK_fields (h : opOf w = op) : fmtXKK op (xOf w) (kkOf w) = w := by
  subst h
  apply BitVec.eq_of_toNat_eq
  rw [fmtXKK_toNat (opOf_lt w), opOf, xOf_val, kkOf_toNat]
  omega

theorem nibbles_fields (h : opOf w = op) : nibbles op (xOf w) (yOf w) (nOf w) = w := by
  subst h
  apply BitVec.eq_of_toNat_eq
  rw [nibbles_toNat (opOf_lt w) (xOf w).isLt (yOf w).isLt (nOf w).isLt, opOf, xOf_val, yOf_val, nOf_val]
  omega

/-! ### The decoder on a word of each format with a sub-opcode (30_encoding R95, R96) -/

theorem decodeWord_nibbles_seReg (x y n : Fin 16) :
    decodeWord (nibbles 0x5 x y n) = if n.val = 0 then some (.seReg x y) else none := by
  simp (disch := decide) only [decodeWord, opOf_nibbles, xOf_nibbles, yOf_nibbles, nOf_nibbles]

theorem decodeWord_nibbles_sneReg (x y n : Fin 16) :
    decodeWord (nibbles 0x9 x y n) = if n.val = 0 then some (.sneReg x y) else none := by
  simp (disch := decide) only [decodeWord, opOf_nibbles, xOf_nibbles, yOf_nibbles, nOf_nibbles]

theorem decodeWord_nibbles_alu (x y n : Fin 16) : decodeWord (nibbles 0x8 x y n) = decodeAlu x y n := by
  simp (disch := decide) only [decodeWord, opOf_nibbles, xOf_nibbles, yOf_nibbles, nOf_nibbles]

theorem decodeWord_fmtXKK_keys (x : Reg) (kk : Byte) : decodeWord (fmtXKK 0xE x kk) = decodeKeys x kk := by
  simp (disch := decide) only [decodeWord, opOf_fmtXKK, xOf_fmtXKK, kkOf_fmtXKK]

theorem decodeWord_fmtXKK_misc (x : Reg) (kk : Byte) : decodeWord (fmtXKK 0xF x kk) = decodeMisc x kk := by
  simp (disch := decide) only [decodeWord, opOf_fmtXKK, xOf_fmtXKK, kkOf_fmtXKK]

/-! ### Decode of encode -/

/-- The word of an instruction stands for that instruction: its class selects the arm, and the arm reads back the
fields the format laid out. -/
theorem decodeWord_encode (i : Instr) : decodeWord (encode i) = some i := by
  cases i with
  | cls | ret => rfl
  | jp | call | ldI | jpV0 =>
    simp (disch := decide) only [encode, decodeWord, opOf_fmtNNN, nnnOf_fmtNNN]
  | seImm | sneImm | ldImm | addImm | rnd =>
    simp (disch := decide) only [encode, decodeWord, opOf_fmtXKK, xOf_fmtXKK, kkOf_fmtXKK]
  | drw =>
    simp (disch := decide) only [encode, decodeWord, opOf_nibbles, xOf_nibbles, yOf_nibbles, nOf_nibbles]
  | seReg x y => exact (decodeWord_nibbles_seReg x y 0x0).trans (if_pos rfl)
  | sneReg x y => exact (decodeWord_nibbles_sneReg x y 0x0).trans (if_pos rfl)
  | ldReg x y => exact decodeWord_nibbles_alu x y 0x0
  | orReg x y => exact decodeWord_nibbles_alu x y 0x1
  | andReg x y => exact decodeWord_nibbles_alu x y 0x2
  | xorReg x y => exact decodeWord_nibbles_alu x y 0x3
  | addReg x y => exact decodeWord_nibbles_alu x y 0x4
  | sub x y => exact decodeWord_nibbles_alu x y 0x5
  | shr x y => exact decodeWord_nibbles_alu x y 0x6
  | subn x y => exact decodeWord_nibbles_alu x y 0x7
  | shl x y => exact decodeWord_nibbles_alu x y 0xE
  | skp x | sknp x =>
    rw [encode, nibbles_eq_fmtXKK (by decide)]
    exact decodeWord_fmtXKK_keys x _
  | ldVxDt x | ldVxK x | ldDtVx x | ldStVx x | addI x | ldF x | ldB x | ldMemVx x | ldVxMem x =>
    rw [encode, nibbles_eq_fmtXKK (by decide)]
    exact decodeWord_fmtXKK_misc x _

/-- The two bytes of a word, the high byte first, are the word (20_memory R69, R70). -/
theorem joinWord_bytes (w : Word) : joinWord (hiByte w) (loByte w) = w := by
  apply BitVec.eq_of_toNat_eq
  have := w.isLt
  rw [Machine.joinWord_toNat, hiByte, loByte, BitVec.toNat_ofNat, BitVec.toNat_ofNat]
  omega

theorem decode_wordBytes (h : decodeWord w = some i) (rest : List Byte) :
    decode (wordBytes w ++ rest) = .ok (i, rest) := by
  simp only [wordBytes, List.cons_append, List.nil_append, decode, joinWord_bytes, h]

/-- Settles O1: the stored bytes join to the word of the instruction, and that word stands for it. -/
theorem decodeOfEncodeIsIdentity : Obligations.DecodeOfEncodeIsIdentity :=
  fun i => decode_wordBytes (decodeWord_encode i)

/-! ### Encode of decode -/

/-- Class 0 has two exact words and no field. -/
theorem encode_of_decodeFixed (h : decodeFixed w = some i) : encode i = w := by
  unfold decodeFixed at h
  split at h
  case isTrue hw =>
    cases h
    exact BitVec.eq_of_toNat_eq hw.symm
  case isFalse =>
    obtain ⟨hw, hi⟩ := Option.ite_none_right_eq_some.1 h
    cases hi
    exact BitVec.eq_of_toNat_eq hw.symm

theorem encode_of_decodeAlu {x y : Reg} {n : Nat} (h : decodeAlu x y n = some i) : encode i = nibbles 0x8 x y n := by
  unfold decodeAlu at h
  split at h <;> cases h <;> rfl

theorem encode_of_decodeKeys {x : Reg} {kk : Byte} (h : decodeKeys x kk = some i) : encode i = fmtXKK 0xE x kk := by
  unfold decodeKeys at h
  split at h <;> cases h <;> exact nibbles_eq_fmtXKK (by decide) x

theorem encode_of_decodeMisc {x : Reg} {kk : Byte} (h : decodeMisc x kk = some i) : encode i = fmtXKK 0xF x kk := by
  unfold decodeMisc at h
  split at h <;> cases h <;> exact nibbles_eq_fmtXKK (by decide) x

/-- The instruction of an arm is laid out in the arm's format from the fields of the word, and these are the word.
Arm `h_k` is class `k - 1`. -/
theorem encode_of_decodeWord (h : decodeWord w = some i) : encode i = w := by
  unfold decodeWord at h
  split at h
  case h_1 => exact encode_of_decodeFixed h
  case h_2 hop | h_3 hop | h_11 hop | h_12 hop =>
    cases h
    exact fmtNNN_fields hop
  case h_4 hop | h_5 hop | h_7 hop | h_8 hop | h_13 hop =>
    cases h
    exact fmtXKK_fields hop
  case h_6 hop | h_10 hop =>
    obtain ⟨hn, hi⟩ := Option.ite_none_right_eq_some.1 h
    cases hi
    rw [encode, ← hn]
    exact nibbles_fields hop
  case h_9 hop => exact (encode_of_decodeAlu h).trans (nibbles_fields hop)
  case h_14 hop =>
    cases h
    exact nibbles_fields hop
  case h_15 hop => exact (encode_of_decodeKeys h).trans (fmtXKK_fields hop)
  case h_16 hop => exact (encode_of_decodeMisc h).trans (fmtXKK_fields hop)
  case h_17 => cases h

/-- Settles O2: a word is the word of its fields, and the sub-opcode tables name each row by the bits they matched. -/
theorem encodeOfDecodeIsIdentity : Obligations.EncodeOfDecodeIsIdentity :=
  fun _ _ => encode_of_decodeWord

/-! ### Unrecognised words (30_encoding R97) -/

theorem decodeFixed_eq_none : decodeFixed w = none ↔ w.toNat ≠ 0x00E0 ∧ w.toNat ≠ 0x00EE := by
  unfold decodeFixed
  split <;> simp [*]

theorem decodeAlu_eq_none (x y n : Fin 16) :
    decodeAlu x y n = none ↔ n.val ∈ [0x8, 0x9, 0xA, 0xB, 0xC, 0xD, 0xF] := by
  fin_cases n <;> simp [decodeAlu]

/-- In the last arm `kk` is no sub-opcode of the table; in the others it is one of them. -/
theorem decodeKeys_eq_none (x : Reg) (kk : Byte) : decodeKeys x kk = none ↔ kk.toNat ∉ [0x9E, 0xA1] := by
  unfold decodeKeys
  split
  case h_3 => simp_all [← BitVec.toNat_inj]
  all_goals simp

/-- As `decodeKeys_eq_none`, for the table of class F. -/
theorem decodeMisc_eq_none (x : Reg) (kk : Byte) :
    decodeMisc x kk = none ↔ kk.toNat ∉ [0x07, 0x0A, 0x15, 0x18, 0x1E, 0x29, 0x33, 0x55, 0x65] := by
  unfold decodeMisc
  split
  case h_10 => simp_all [← BitVec.toNat_inj]
  all_goals simp

/-- Six classes have unrecognised words: those of their sub-decoder or of a nibble that must be 0. The other ten arms
always answer an instruction. -/
theorem decodeWord_eq_none : decodeWord w = none ↔
    (opOf w = 0x0 ∧ decodeFixed w = none) ∨
    (opOf w = 0x5 ∧ (nOf w).val ≠ 0) ∨
    (opOf w = 0x8 ∧ decodeAlu (xOf w) (yOf w) (nOf w).val = none) ∨
    (opOf w = 0x9 ∧ (nOf w).val ≠ 0) ∨
    (opOf w = 0xE ∧ decodeKeys (xOf w) (kkOf w) = none) ∨
    (opOf w = 0xF ∧ decodeMisc (xOf w) (kkOf w) = none) := by
  have hclass : opOf w < 16 := opOf_lt w
  unfold decodeWord
  generalize opOf w = c at hclass
  interval_cases c <;> simp

/-- Settles O4: the fields of the word `n` are quotients and remainders of `n`, and each sub-decoder's unrecognised
words are a row of the table. -/
theorem unrecognisedWordsByClass : Obligations.UnrecognisedWordsByClass := by
  intro n hn
  have hw : (BitVec.ofNat 16 n).toNat = n := Nat.mod_eq_of_lt hn
  rw [decodeWord_eq_none, decodeFixed_eq_none, decodeAlu_eq_none, decodeKeys_eq_none, decodeMisc_eq_none, opOf, nOf_val,
    kkOf_toNat, hw]

/-! ### Sample words (95_test_vectors) -/

/-- Settles O5: each word is the encoding of its instruction, and 0x5121 is a word of class 5 with `n = 1`. -/
theorem sampleWordsDecode : Obligations.SampleWordsDecode :=
  ⟨decodeWord_encode .cls, decodeWord_encode .ret, decodeWord_encode (.jp 0x234), decodeWord_encode (.ldImm 10 0x2F),
    decodeWord_encode (.seReg 1 2), decodeWord_encode (.subn 1 2), decodeWord_encode (.drw 1 2 2),
    decodeWord_encode (.skp 5), decodeWord_encode (.ldB 10), decodeWord_nibbles_seReg 1 2 1⟩

end Sys2Proof.Laws

/-! SUPPORT. The rows of the opcode table against the decoder, the instruction a step in Running mode runs, and the
settled statements about the cycle of 40_cycle. -/
namespace Sys2Proof.Laws

variable {w : Word} {i : Instr}

/-! ### The rows of the opcode table (40_cycle R124) -/

/-- The table lists the row of every instruction, whatever its operands. -/
theorem rowOf_mem_opcodeTable (i : Instr) : rowOf i ∈ opcodeTable := by
  cases i <;> simp [opcodeTable, oneOfEachLow, oneOfEachMid, oneOfEachHigh, rowOf]

theorem exists_rowOf_of_mem {r : OpRow} (h : r ∈ opcodeTable) : ∃ j, rowOf j = r := by
  obtain ⟨j, _, hj⟩ := List.mem_map.1 h
  exact ⟨j, hj⟩

theorem encode_in_row : ∀ i, InRow.Statement i
  | .cls => InRow.cls
  | .ret => InRow.ret
  | .jp nnn => InRow.jp nnn
  | .call nnn => InRow.call nnn
  | .seImm x kk => InRow.seImm x kk
  | .sneImm x kk => InRow.sneImm x kk
  | .seReg x y => InRow.seReg x y
  | .ldImm x kk => InRow.ldImm x kk
  | .addImm x kk => InRow.addImm x kk
  | .ldReg x y => InRow.ldReg x y
  | .orReg x y => InRow.orReg x y
  | .andReg x y => InRow.andReg x y
  | .xorReg x y => InRow.xorReg x y
  | .addReg x y => InRow.addReg x y
  | .sub x y => InRow.sub x y
  | .shr x y => InRow.shr x y
  | .subn x y => InRow.subn x y
  | .shl x y => InRow.shl x y
  | .sneReg x y => InRow.sneReg x y
  | .ldI nnn => InRow.ldI nnn
  | .jpV0 nnn => InRow.jpV0 nnn
  | .rnd x kk => InRow.rnd x kk
  | .drw x y n => InRow.drw x y n
  | .skp x => InRow.skp x
  | .sknp x => InRow.sknp x
  | .ldVxDt x => InRow.ldVxDt x
  | .ldVxK x => InRow.ldVxK x
  | .ldDtVx x => InRow.ldDtVx x
  | .ldStVx x => InRow.ldStVx x
  | .addI x => InRow.addI x
  | .ldF x => InRow.ldF x
  | .ldB x => InRow.ldB x
  | .ldMemVx x => InRow.ldMemVx x
  | .ldVxMem x => InRow.ldVxMem x

/-- A word that decodes is the word of its instruction, and so in that instruction's row. -/
theorem row_of_decodeWord (h : decodeWord w = some i) : w &&& (rowOf i).mask = (rowOf i).pattern :=
  encode_of_decodeWord h ▸ encode_in_row i

/-! ### Rows never overlap -/

/-- A word in two rows has the bits both masks keep in common, so the patterns agree there. -/
theorem patterns_agree {r q : OpRow} (hr : w &&& r.mask = r.pattern) (hq : w &&& q.mask = q.pattern) :
    r.pattern &&& q.mask = q.pattern &&& r.mask := by
  rw [← hr, ← hq, BitVec.and_assoc, BitVec.and_comm r.mask, BitVec.and_assoc]

/-- Any two patterns differ in a bit that both masks keep. -/
theorem opcodeTable_patterns_differ :
    opcodeTable.Pairwise fun r q => r.pattern &&& q.mask ≠ q.pattern &&& r.mask := by
  decide

theorem opcodeTable_rows_disjoint :
    opcodeTable.Pairwise fun r q => ∀ w, ¬ (w &&& r.mask = r.pattern ∧ w &&& q.mask = q.pattern) :=
  opcodeTable_patterns_differ.imp fun hne _ ⟨hr, hq⟩ => hne (patterns_agree hr hq)

/-! ### The fields a row's mask keeps -/

theorem opOf_and_F000 (w : Word) : opOf (w &&& 0xF000) = opOf w := by
  rw [opOf, opOf, and_F000]
  omega

theorem opOf_and_F00F (w : Word) : opOf (w &&& 0xF00F) = opOf w := by
  rw [opOf, opOf, and_F00F]
  omega

theorem nOf_and_F00F (w : Word) : nOf (w &&& 0xF00F) = nOf w := by
  apply Fin.ext
  rw [nOf_val, nOf_val, and_F00F]
  omega

theorem opOf_and_F0FF (w : Word) : opOf (w &&& 0xF0FF) = opOf w := by
  rw [opOf, opOf, and_F0FF]
  omega

theorem kkOf_and_F0FF (w : Word) : kkOf (w &&& 0xF0FF) = kkOf w := by
  apply BitVec.eq_of_toNat_eq
  rw [kkOf_toNat, kkOf_toNat, and_F0FF]
  omega

/-! ### A word in a row decodes

The mask of a row keeps the class and the sub-opcode, so the word has those of the row's pattern, and the decoder's arm
for them answers an instruction whatever the operand bits are. -/

theorem decodeWord_ne_none_of_row (j : Instr) (h : w &&& (rowOf j).mask = (rowOf j).pattern) :
    decodeWord w ≠ none := by
  cases j <;> simp only [rowOf] at h
  case cls | ret =>
    have hw : w = _ := BitVec.and_allOnes.symm.trans h
    rw [hw]
    decide
  case jp | call | seImm | sneImm | ldImm | addImm | ldI | jpV0 | rnd | drw =>
    rw [decodeWord, ← opOf_and_F000, h]
    simp [opOf]
  case seReg | ldReg | orReg | andReg | xorReg | addReg | sub | shr | subn | shl | sneReg =>
    rw [decodeWord, ← opOf_and_F00F, ← nOf_and_F00F, h]
    simp [opOf, nOf, decodeAlu]
  case skp | sknp | ldVxDt | ldVxK | ldDtVx | ldStVx | addI | ldF | ldB | ldMemVx | ldVxMem =>
    rw [decodeWord, ← opOf_and_F0FF, ← kkOf_and_F0FF, h]
    simp [opOf, kkOf, decodeKeys, decodeMisc]

/-- No row matches a word the decoder refuses, and a word it accepts is in the row of its instruction. -/
theorem decodeWord_eq_none_iff_no_row :
    decodeWord w = none ↔ ∀ r ∈ opcodeTable, w &&& r.mask ≠ r.pattern := by
  constructor
  · intro hw r hr hmatch
    obtain ⟨j, rfl⟩ := exists_rowOf_of_mem hr
    exact decodeWord_ne_none_of_row j hmatch hw
  · intro hno
    by_contra hw
    obtain ⟨i, hi⟩ := Option.ne_none_iff_exists'.1 hw
    exact hno _ (rowOf_mem_opcodeTable i) (row_of_decodeWord hi)

/-- Settles O3: two patterns differ where both masks look; a word that decodes is its instruction's encoding, and a
word in a row has the class and the sub-opcode of that row. -/
theorem decoderFollowsOpcodeTable : Obligations.DecoderFollowsOpcodeTable :=
  ⟨rfl, opcodeTable_rows_disjoint, fun _ i h => ⟨rowOf_mem_opcodeTable i, row_of_decodeWord h⟩,
    fun _ => decodeWord_eq_none_iff_no_row⟩

/-! ### Decoding the two bytes of a fetch -/

theorem decodeWord_of_decode_ok {hi lo : Byte} (h : decode [hi, lo] = .ok (i, [])) :
    decodeWord (joinWord hi lo) = some i := by
  simp only [decode] at h
  split at h
  case h_1 hd =>
    cases h
    exact hd
  case h_2 => cases h

theorem decodeWord_of_decode_error {hi lo : Byte} (h : decode [hi, lo] = .error (.unrecognized w)) :
    joinWord hi lo = w ∧ decodeWord w = none := by
  simp only [decode] at h
  split at h
  case h_1 => cases h
  case h_2 hd =>
    cases h
    exact ⟨rfl, hd⟩

end Sys2Proof.Laws

namespace Sys2Proof.Machine

open Sys2Proof.Laws

variable {s r : State} {i : Instr} {w : Word}

/-! ### A step in Running mode (40_cycle R120, R121, R126) -/

theorem act_step_of_decoded (hm : s.mode = .running) (hf : s.fetch = .ok w) (hd : decodeWord w = some i) :
    act .step s = exec i s := by
  rw [act_step_of_running hm]
  simp only [executeOne, hf, hd]

theorem act_step_of_unrecognized (hm : s.mode = .running) (hf : s.fetch = .ok w) (hd : decodeWord w = none) :
    act .step s = .next (s.reportUnrecognized w) := by
  rw [act_step_of_running hm]
  simp only [executeOne, hf, hd]

theorem step_of_nextOp {op : PortOp} (h : s.nextOp = (op, r)) : step s = act op r := by
  rw [step, h]

/-- With nothing lined up the host strobes `step`, and no line changes (10_state R47). -/
theorem State.nextOp_of_host_nil (h : s.host = []) : s.nextOp = (.step, s) := by
  simp only [State.nextOp, h]

/-- Settles O6: the bytes at `pc` are the word the fetch reads. -/
theorem stepRunsDecodedInstruction : Obligations.StepRunsDecodedInstruction := by
  intro s r i hop hm hpc hdec
  refine ⟨?_, fun hhost => ?_⟩
  · rw [step_of_nextOp hop]
    exact act_step_of_decoded hm (State.fetch_ok hpc) (decodeWord_of_decode_ok hdec)
  · rw [State.nextOp_of_host_nil hhost] at hop
    exact (Prod.mk.inj hop).2.symm

/-- Settles O7: the bytes at `pc` are the word the fetch reads, and the report changes the history and `pc` alone. -/
theorem unrecognisedWordIsReportedNoOp : Obligations.UnrecognisedWordIsReportedNoOp := by
  intro s w hm hpc hdec
  obtain ⟨hw, hd⟩ := decodeWord_of_decode_error hdec
  exact act_step_of_unrecognized hm (hw ▸ State.fetch_ok hpc) hd

end Sys2Proof.Machine

/-! SUPPORT. What each instruction of 41_control_flow answers, one equation per outcome, and the settled statements
about jumps, call, return and skips. -/
namespace Sys2Proof.Machine

open Sys2Proof.Laws

variable {s : State} {i : Instr} {w : Nat}

/-! ### The number of an instruction's word -/

/-- An instruction is what the number of its own word decodes to. -/
theorem decodesTo_of_encode (h : encode i = BitVec.ofNat 16 w) : DecodesTo w i := by
  rw [DecodesTo, ← h]
  exact decodeWord_encode i

/-! ### Jump, call and return (R140 to R142) -/

theorem exec_jp (nnn : Addr12) (s : State) : exec (.jp nnn) s = .next (s.setPc (nnn.setWidth 16)) := rfl

theorem exec_call_ok (nnn : Addr12) (h : s.sp ≠ s.params.stackDepth) :
    exec (.call nnn) s = .next ((s.push s.npc).setPc (nnn.setWidth 16)) := by
  rw [exec, execCall, if_neg h, State.settle_ok]

theorem exec_call_full (nnn : Addr12) (h : s.sp = s.params.stackDepth) :
    exec (.call nnn) s = .next (s.raiseFault ⟨.stackOverflow, s.npc.toNat⟩) := by
  rw [exec, execCall, if_pos h, State.settle_error]

theorem exec_ret_ok (h : s.sp ≠ 0) : exec .ret s = .next (s.pop.setPc s.stackTop) := by
  rw [exec, execRet, if_neg h, State.settle_ok]

theorem exec_ret_empty (h : s.sp = 0) : exec .ret s = .next (s.raiseFault ⟨.stackUnderflow, 0⟩) := by
  rw [exec, execRet, if_pos h, State.settle_error]

theorem State.stackTop_eq {a : Word} (h : s.stack[s.sp - 1]? = some a) : s.stackTop = a := by
  rw [State.stackTop, List.getD_eq_getElem?_getD, h, Option.getD_some]

/-- The entry a push wrote is the one below the new SP, when SP was inside the stack (10_state R31). -/
theorem State.push_top (h : s.sp < s.stack.length) (a : Word) : (s.push a).stack[(s.push a).sp - 1]? = some a :=
  List.getElem?_set_self h

/-! ### Skips (R143 to R146, R148) -/

/-- Two instructions are four bytes: the skip in the words of R148, for a test that decides `p`. -/
theorem State.skipIf_of_iff {c : Bool} {p : Prop} [Decidable p] (h : c = true ↔ p) :
    s.skipIf c = { s with pc := if p then s.pc + 4 else s.pc + 2 } := by
  have hskip : s.pc + 2 + 2 = s.pc + 4 := BitVec.add_assoc s.pc 2 2
  rw [State.skipIf_eq, hskip]
  simp only [h]
  rfl

theorem exec_seImm_ok {x : Reg} (hx : s.readable (.v x) = true) (kk : Byte) :
    exec (.seImm x kk) s = .next (s.skipIf (s.v[x] == kk)) := by
  rw [exec, execSeImm, State.readV_ok hx, checked_ok_bind, State.settle_ok]

theorem exec_sneImm_ok {x : Reg} (hx : s.readable (.v x) = true) (kk : Byte) :
    exec (.sneImm x kk) s = .next (s.skipIf (s.v[x] != kk)) := by
  rw [exec, execSneImm, State.readV_ok hx, checked_ok_bind, State.settle_ok]

theorem exec_seReg_ok {x y : Reg} (hx : s.readable (.v x) = true) (hy : s.readable (.v y) = true) :
    exec (.seReg x y) s = .next (s.skipIf (s.v[x] == s.v[y])) := by
  rw [exec, execSeReg, State.readPair_ok hx hy, checked_ok_bind, State.settle_ok]

theorem exec_sneReg_ok {x y : Reg} (hx : s.readable (.v x) = true) (hy : s.readable (.v y) = true) :
    exec (.sneReg x y) s = .next (s.skipIf (s.v[x] != s.v[y])) := by
  rw [exec, execSneReg, State.readPair_ok hx hy, checked_ok_bind, State.settle_ok]

/-! ### The indexed jump (R147) -/

theorem exec_jpV0_ok (nnn : Addr12) (h : s.readable (.v 0) = true) :
    exec (.jpV0 nnn) s = .next (s.setPc (BitVec.ofNat 16 (nnn.toNat + s.v[(0 : Reg)].toNat))) := by
  rw [exec, execJpV0, State.readV_ok h, checked_ok_bind, State.settle_ok]

/-- Twelve bits and eight bits add up inside sixteen. -/
theorem toNat_addr12_add_byte (nnn : Addr12) (b : Byte) :
    (BitVec.ofNat 16 (nnn.toNat + b.toNat)).toNat = nnn.toNat + b.toNat := by
  have := nnn.isLt
  have := b.isLt
  rw [BitVec.toNat_ofNat]
  omega

/-! ### The settled statements -/

/-- Settles O13: the jump's one write is to `pc`. -/
theorem jumpSetsPc : Obligations.JumpSetsPc := by
  intro nnn s
  refine ⟨decodesTo_of_encode rfl, ?_⟩
  rw [exec_jp, BitVec.ofNat_toNat]
  rfl

/-- Settles O14: by whether the stack is full. -/
theorem callPushesNextAddress : Obligations.CallPushesNextAddress := by
  intro nnn s
  refine ⟨decodesTo_of_encode rfl, fun hfree => ?_, fun hfull => ?_⟩
  · rw [exec_call_ok nnn hfree, BitVec.ofNat_toNat]
    rfl
  · exact exec_call_full nnn hfull

/-- Settles O15: by whether the stack is empty; the entry the hypothesis names is the top. -/
theorem returnPopsAddress : Obligations.ReturnPopsAddress := by
  intro s
  refine ⟨decodesTo_of_encode rfl, fun a hsp ha => ?_, exec_ret_empty⟩
  rw [exec_ret_ok hsp, State.stackTop_eq ha]
  rfl

/-- Settles O16: CALL leaves its return address on top of the stack, and RET reads no more of its own state than the
stack and SP. -/
theorem returnUndoesCall : Obligations.ReturnUndoesCall := by
  intro nnn s hsp hlen
  refine ⟨_, exec_call_ok nnn hsp.ne, fun m hmsp hmstack => ?_⟩
  have hm : m.sp = s.sp + 1 := hmsp
  have htop : m.stack[m.sp - 1]? = some (s.pc + 2) := by
    rw [hmsp, hmstack]
    exact State.push_top (hlen ▸ hsp) s.npc
  obtain ⟨-, hpop, -⟩ := returnPopsAddress m
  refine ⟨_, hpop (s.pc + 2) (hm ▸ Nat.succ_ne_zero s.sp) htop, rfl, ?_⟩
  show m.sp - 1 = s.sp
  rw [hm, Nat.add_sub_cancel]

/-- Settles O17: each test decides the condition of its rule. -/
theorem immediateSkips : Obligations.ImmediateSkips := by
  intro x kk s
  refine ⟨decodesTo_of_encode rfl, decodesTo_of_encode rfl, fun hx => ⟨?_, ?_⟩⟩
  · rw [exec_seImm_ok hx, State.skipIf_of_iff beq_iff_eq]
  · rw [exec_sneImm_ok hx, State.skipIf_of_iff bne_iff_ne]

/-- Settles O18: each test decides the condition of its rule. -/
theorem registerSkips : Obligations.RegisterSkips := by
  intro x y s
  refine ⟨decodesTo_of_encode rfl, decodesTo_of_encode rfl, fun hx hy => ⟨?_, ?_⟩⟩
  · rw [exec_seReg_ok hx hy, State.skipIf_of_iff beq_iff_eq]
  · rw [exec_sneReg_ok hx hy, State.skipIf_of_iff bne_iff_ne]

/-- Settles O19: the sum fits the sixteen bits of `pc`. -/
theorem indexedJumpAddsV0 : Obligations.IndexedJumpAddsV0 := by
  intro nnn s
  refine ⟨decodesTo_of_encode rfl, fun h0 => ⟨_, exec_jpV0_ok nnn h0, ?_, rfl⟩⟩
  exact toNat_addr12_add_byte nnn s.v[(0 : Reg)]

end Sys2Proof.Machine

/-! SUPPORT. What each instruction of 42_register_alu answers when its registers are readable, and the settled
statements about immediates, the register-register ALU and the random byte. -/
namespace Sys2Proof.Machine

variable {s : State} {i : Instr} {x y : Reg}

/-! ### The words of class 8 (30_encoding R95) -/

/-- A class-8 instruction by the number of its word, the sub-opcode `n` counted in with the class. -/
theorem decodesTo_alu (n : Nat) (h : encode i = nibbles 0x8 x y n) :
    DecodesTo (0x8000 + n + x.val * 256 + y.val * 16) i := by
  refine decodesTo_of_encode (h.trans ?_)
  rw [nibbles]
  congr 1
  omega

/-! ### One register written, or a register and then the flag -/

/-- An instruction that ends by writing `x` alone, in the form the statements give its frame. -/
theorem exec_writes_reg {b b' : Byte} (h : exec i s = .next (s.setV x b).advance) (hb : b = b') :
    ∃ t, exec i s = .next t ∧ RegsWritten s t (fun r => if r = x then some b' else none) (s.pc + 2) := by
  subst hb
  exact ⟨_, h, regsWritten_setV s x b⟩

/-- An instruction that ends by writing `x` and then VF, in the form the statements give its frame (R162). -/
theorem exec_writes_reg_flag {b b' c : Byte} {f : Bool} (h : exec i s = .next ((s.setV x b).setFlag f).advance)
    (hb : b = b') (hf : flagByte f = c) :
    ∃ t, exec i s = .next t ∧
      RegsWritten s t (fun r => if r = 15 then some c else if r = x then some b' else none) (s.pc + 2) := by
  subst hb hf
  exact ⟨_, h, regsWritten_setV_setFlag s x b f⟩

/-! ### Results and flags as the rules write them -/

/-- A byte is its number modulo 256. -/
theorem byte_ofNat_mod (n : Nat) : BitVec.ofNat 8 n = BitVec.ofNat 8 (n % 256) := by
  apply BitVec.eq_of_toNat_eq
  rw [BitVec.toNat_ofNat, BitVec.toNat_ofNat, Nat.mod_mod]

/-- The integer difference of two bytes, reduced, is their difference with 256 borrowed (R168, R170). -/
theorem byte_ofInt_sub (a b : Byte) :
    BitVec.ofInt 8 (a.toNat - b.toNat) = BitVec.ofNat 8 ((256 + a.toNat - b.toNat) % 256) := by
  have := a.isLt
  have := b.isLt
  apply BitVec.eq_of_toNat_eq
  rw [BitVec.toNat_ofInt, BitVec.toNat_ofNat]
  omega

theorem byte_shiftRight_one (a : Byte) : a >>> 1 = BitVec.ofNat 8 (a.toNat / 2) := by
  have := a.isLt
  apply BitVec.eq_of_toNat_eq
  rw [BitVec.toNat_ushiftRight, Nat.shiftRight_eq_div_pow, BitVec.toNat_ofNat]
  omega

theorem byte_shiftLeft_one (a : Byte) : a <<< 1 = BitVec.ofNat 8 (a.toNat * 2 % 256) := by
  apply BitVec.eq_of_toNat_eq
  rw [BitVec.toNat_shiftLeft, Nat.shiftLeft_eq, BitVec.toNat_ofNat]
  omega

/-- A flag computed by a comparison, as a byte (10_state R24). -/
theorem flagByte_decide (p : Prop) [Decidable p] : flagByte (decide p) = if p then 1 else 0 := by
  simp only [flagByte, decide_eq_true_eq]

theorem flagByte_lowBitFlag (a : Byte) : flagByte (lowBitFlag a) = BitVec.ofNat 8 (a.toNat % 2) := by
  rcases Nat.mod_two_eq_zero_or_one a.toNat with h | h <;> simp [flagByte, lowBitFlag, h]

theorem flagByte_highBitFlag (a : Byte) : flagByte (highBitFlag a) = BitVec.ofNat 8 (a.toNat / 128) := by
  have hbit : a.toNat / 128 = 0 ∨ a.toNat / 128 = 1 := by
    have := a.isLt
    omega
  rcases hbit with h | h <;> simp [flagByte, highBitFlag, h]

/-! ### Immediates (R160, R161) -/

theorem exec_ldImm (x : Reg) (kk : Byte) (s : State) : exec (.ldImm x kk) s = .next (s.setV x kk).advance := rfl

theorem exec_addImm_ok (hx : s.readable (.v x) = true) (kk : Byte) :
    exec (.addImm x kk) s = .next (s.setV x (BitVec.ofNat 8 (s.v[x].toNat + kk.toNat))).advance := by
  rw [exec, execAddImm, State.readV_ok hx, checked_ok_bind, State.settle_ok]

/-! ### Two registers (R163 to R168, R170) -/

section Pair

variable (hx : s.readable (.v x) = true) (hy : s.readable (.v y) = true)
include hx hy

theorem exec_ldReg_ok : exec (.ldReg x y) s = .next (s.setV x s.v[y]).advance := by
  rw [exec, execLdReg, State.readPair_ok hx hy, checked_ok_bind, State.settle_ok]

theorem exec_orReg_ok : exec (.orReg x y) s = .next (s.setV x (s.v[x] ||| s.v[y])).advance := by
  rw [exec, execOrReg, State.readPair_ok hx hy, checked_ok_bind, State.settle_ok]

theorem exec_andReg_ok : exec (.andReg x y) s = .next (s.setV x (s.v[x] &&& s.v[y])).advance := by
  rw [exec, execAndReg, State.readPair_ok hx hy, checked_ok_bind, State.settle_ok]

theorem exec_xorReg_ok : exec (.xorReg x y) s = .next (s.setV x (s.v[x] ^^^ s.v[y])).advance := by
  rw [exec, execXorReg, State.readPair_ok hx hy, checked_ok_bind, State.settle_ok]

theorem exec_addReg_ok : exec (.addReg x y) s =
    .next ((s.setV x (BitVec.ofNat 8 (s.v[x].toNat + s.v[y].toNat))).setFlag (carryFlag s.v[x] s.v[y])).advance := by
  rw [exec, execAddReg, State.readPair_ok hx hy, checked_ok_bind, State.settle_ok]

theorem exec_sub_ok : exec (.sub x y) s =
    .next ((s.setV x (BitVec.ofInt 8 (s.v[x].toNat - s.v[y].toNat))).setFlag (greaterFlag s.v[x] s.v[y])).advance := by
  rw [exec, execSub, State.readPair_ok hx hy, checked_ok_bind, State.settle_ok]

theorem exec_subn_ok : exec (.subn x y) s =
    .next ((s.setV x (BitVec.ofInt 8 (s.v[y].toNat - s.v[x].toNat))).setFlag (greaterFlag s.v[y] s.v[x])).advance := by
  rw [exec, execSubn, State.readPair_ok hx hy, checked_ok_bind, State.settle_ok]

end Pair

/-! ### Shifts (R169, R171) -/

/-- The shifted value is that of the register SHIFT_SOURCE names; only under `vy` is Vy read. -/
theorem State.shiftOperand_ok {src : Byte} (hx : s.readable (.v x) = true)
    (hvx : s.params.shiftSource = .vx → src = s.v[x])
    (hvy : s.params.shiftSource = .vy → s.readable (.v y) = true ∧ src = s.v[y]) :
    s.shiftOperand x y = .ok src := by
  rw [State.shiftOperand]
  cases hsource : s.params.shiftSource with
  | vx => exact hvx hsource ▸ State.readV_ok hx
  | vy =>
    obtain ⟨hy, rfl⟩ := hvy hsource
    simp only [State.readPair_ok hx hy, checked_ok_bind]

theorem exec_shr_ok {src : Byte} (h : s.shiftOperand x y = .ok src) :
    exec (.shr x y) s = .next ((s.setV x (src >>> 1)).setFlag (lowBitFlag src)).advance := by
  rw [exec, execShr, h, checked_ok_bind, State.settle_ok]

theorem exec_shl_ok {src : Byte} (h : s.shiftOperand x y = .ok src) :
    exec (.shl x y) s = .next ((s.setV x (src <<< 1)).setFlag (highBitFlag src)).advance := by
  rw [exec, execShl, h, checked_ok_bind, State.settle_ok]

/-! ### The random byte (R182) -/

theorem exec_rnd (x : Reg) (kk : Byte) (s : State) :
    exec (.rnd x kk) s = .next (s.consumeByte.setV x (kk &&& s.drawnByte)).advance := rfl

theorem State.drawnByte_cons {r : Byte} {rs : List Byte} (h : s.rng = r :: rs) : s.drawnByte = r := by
  simp only [State.drawnByte, h]

theorem State.consumeByte_cons {r : Byte} {rs : List Byte} (h : s.rng = r :: rs) :
    s.consumeByte = { s with rng := rs } := by
  simp only [State.consumeByte, h]

theorem State.consumeByte_nil (h : s.rng = []) : s.consumeByte = { s with draws := s.draws + 1 } := by
  simp only [State.consumeByte, h]

/-! ### The settled statements -/

/-- Settles O20: no register is read, so the write is the whole step in every state. -/
theorem loadImmediate : Obligations.LoadImmediate := by
  intro x kk s
  exact ⟨decodesTo_of_encode rfl, exec_writes_reg (exec_ldImm x kk s) rfl⟩

/-- Settles O21: one register is written and no flag after it. -/
theorem addImmediateSetsNoFlag : Obligations.AddImmediateSetsNoFlag := by
  intro x kk s
  exact ⟨decodesTo_of_encode rfl, fun hx => exec_writes_reg (exec_addImm_ok hx kk) (byte_ofNat_mod _)⟩

/-- Settles O22: each of the four writes Vx and no flag after it. -/
theorem assignAndLogicSetNoFlag : Obligations.AssignAndLogicSetNoFlag := by
  intro x y s
  refine ⟨decodesTo_alu 0x0 rfl, decodesTo_alu 0x1 rfl, decodesTo_alu 0x2 rfl, decodesTo_alu 0x3 rfl,
    fun hx hy => ?_⟩
  simp only [List.forall_mem_cons]
  exact ⟨exec_writes_reg (exec_ldReg_ok hx hy) rfl, exec_writes_reg (exec_orReg_ok hx hy) rfl,
    exec_writes_reg (exec_andReg_ok hx hy) rfl, exec_writes_reg (exec_xorReg_ok hx hy) rfl,
    List.forall_mem_nil _⟩

/-- Settles O23: the carry is computed from the operands and written after the sum. -/
theorem addRegisterSetsCarry : Obligations.AddRegisterSetsCarry := by
  intro x y s
  exact ⟨decodesTo_alu 0x4 rfl, fun hx hy =>
    exec_writes_reg_flag (exec_addReg_ok hx hy) (byte_ofNat_mod _) (flagByte_decide _)⟩

/-- Settles O24: SUBN is SUB with its operands exchanged, and both compare strictly. -/
theorem subtractSetsStrictNotBorrow : Obligations.SubtractSetsStrictNotBorrow := by
  intro x y s
  refine ⟨decodesTo_alu 0x5 rfl, decodesTo_alu 0x7 rfl, fun hx hy => ⟨?_, ?_⟩⟩
  · exact exec_writes_reg_flag (exec_sub_ok hx hy) (byte_ofInt_sub _ _) (flagByte_decide _)
  · exact exec_writes_reg_flag (exec_subn_ok hx hy) (byte_ofInt_sub _ _) (flagByte_decide _)

/-- Settles O25: whichever register is the source, what is shifted and what is tested is one byte `src`. -/
theorem shiftsSetShiftedOutBit : Obligations.ShiftsSetShiftedOutBit := by
  intro x y s src
  refine ⟨decodesTo_alu 0x6 rfl, decodesTo_alu 0xE rfl, fun hx hvx hvy => ?_⟩
  have hsrc : s.shiftOperand x y = .ok src := State.shiftOperand_ok hx hvx hvy
  exact ⟨exec_writes_reg_flag (exec_shr_ok hsrc) (byte_shiftRight_one src) (flagByte_lowBitFlag src),
    exec_writes_reg_flag (exec_shl_ok hsrc) (byte_shiftLeft_one src) (flagByte_highBitFlag src)⟩

/-- Settles O26: the frame of the register write, over the inputs after the draw; with none presented the byte is the
free one. -/
theorem randomByteIsMaskedInput : Obligations.RandomByteIsMaskedInput := by
  intro x kk s
  refine ⟨decodesTo_of_encode rfl, fun r rs hr => ⟨_, exec_rnd x kk s, ?_⟩,
    fun hr => ⟨_, s.drawnByte, exec_rnd x kk s, ?_⟩⟩
  · rw [State.consumeByte_cons hr, State.drawnByte_cons hr]
    exact regsWritten_setV { s with rng := rs } x (kk &&& r)
  · rw [State.consumeByte_nil hr]
    exact regsWritten_setV { s with draws := s.draws + 1 } x (kk &&& s.drawnByte)

end Sys2Proof.Machine

/-! SUPPORT. What each instruction of 43_index_memory answers once its registers are read, the check of its addresses
still open, and the settled statements about I and data memory. -/
namespace Sys2Proof.Machine

variable {s t : State} {i : Instr} {x : Reg}

/-! ### The words of class F (30_encoding R96) -/

/-- A class-F instruction by the number of its word, the sub-opcode's nibbles `c` and `d` counted in with the class. -/
theorem decodesTo_misc (c d : Nat) (h : encode i = nibbles 0xF x c d) :
    DecodesTo (0xF000 + (c * 16 + d) + x.val * 256) i := by
  refine decodesTo_of_encode (h.trans ?_)
  rw [nibbles]
  congr 1
  omega

/-! ### The writes of I (R190 to R192) -/

theorem exec_ldI (nnn : Addr12) (s : State) : exec (.ldI nnn) s = .next (s.setI (nnn.setWidth 16)).advance := rfl

theorem exec_ldF_ok (hx : s.readable (.v x) = true) :
    exec (.ldF x) s = .next (s.setI (BitVec.ofNat 16 (s.v[x].toNat * 5))).advance := by
  rw [exec, execLdF, State.readV_ok hx, checked_ok_bind, State.settle_ok]

theorem exec_addI_ok (hi : s.readable .i = true) (hx : s.readable (.v x) = true) : exec (.addI x) s =
    .next (s.setI (BitVec.ofNat 16 ((s.i.toNat + s.v[x].toNat) % modulus s.params.iAddWrap))).advance := by
  rw [exec, execAddI, State.readI_ok hi, State.readV_ok hx, checked_ok_bind, checked_ok_bind, State.settle_ok]

/-- A sum reduced by either modulus fits the sixteen bits of I. -/
theorem toNat_ofNat_mod_modulus (n : Nat) (m : Config.IAddWrap) :
    (BitVec.ofNat 16 (n % modulus m)).toNat = n % modulus m := by
  rw [BitVec.toNat_ofNat]
  cases m <;> simp only [modulus] <;> omega

/-! ### A transfer between registers and a checked range of memory

Fx33, Fx55 and Fx65 share one end: `n` addresses from I are checked in order, then the transfer is made as a whole. -/

section Transfer

variable {check : Nat → Checked Unit} {n k : Nat}
  (h : exec i s = s.settle (checkRange check (s.ea 0) n >>= fun _ => .ok t))
include h

theorem exec_of_checkRange_ok (hall : ∀ k < n, check (s.ea k) = .ok ()) : exec i s = .next t := by
  have hpass : checkRange check (s.ea 0) n = .ok () := checkRange_eq_ok.2 hall
  rw [h, hpass, checked_ok_bind, State.settle_ok]

/-- The first address that fails its check gives the fault (20_memory R73). -/
theorem faultsWith_of_checkRange {c : FaultCause} {info : Nat} (hk : k < n)
    (before : ∀ j < k, check (s.ea j) = .ok ()) (hfail : check (s.ea k) = .error ⟨c, info⟩) :
    FaultsWith s (exec i s) c info := by
  have herror : checkRange check (s.ea 0) n = .error ⟨c, info⟩ := checkRange_eq_error hk before hfail
  rw [h, herror, checked_error_bind, State.settle_error]
  rfl

end Transfer

theorem checkRead_error {a : Nat} (h : a > 0xFFF) : checkRead a = .error ⟨.readOutOfRange, a⟩ := if_pos h

theorem checkWrite_above {a : Nat} (p : Config.FontWritePolicy) (h : a > 0xFFF) :
    checkWrite p a = .error ⟨.writeOutOfRange, a⟩ := if_pos h

theorem checkWrite_font {p : Config.FontWritePolicy} {a : Nat} (h : a ≤ 0x04F) (hp : p = .fault) :
    checkWrite p a = .error ⟨.fontRegionWrite, a⟩ := by
  have hrange : ¬ a > 0xFFF := by omega
  rw [checkWrite, if_neg hrange, if_pos ⟨h, hp⟩]

/-- Both faults of a store, at its first address that fails (20_memory R67, R73). -/
theorem store_faults {n k : Nat}
    (h : exec i s = s.settle (checkRange (checkWrite s.params.fontWritePolicy) (s.ea 0) n >>= fun _ => .ok t))
    (hk : k < n) (before : ∀ j < k, WritableAddr s.params (s.ea j)) :
    (s.ea k > 0xFFF → FaultsWith s (exec i s) .writeOutOfRange (s.ea k)) ∧
      (s.ea k ≤ 0x04F → s.params.fontWritePolicy = .fault → FaultsWith s (exec i s) .fontRegionWrite (s.ea k)) := by
  have hbefore : ∀ j < k, checkWrite s.params.fontWritePolicy (s.ea j) = .ok () :=
    fun j hj => checkWrite_of_writableAddr (before j hj)
  exact ⟨fun habove => faultsWith_of_checkRange h hk hbefore (checkWrite_above _ habove),
    fun hfont hp => faultsWith_of_checkRange h hk hbefore (checkWrite_font hfont hp)⟩

/-! ### What a store from I leaves -/

/-- A store, then the next instruction: memory and `pc` alone change. -/
theorem State.writeBytes_advance_eq (s : State) (a : Nat) (bs : List Byte) :
    (s.writeBytes a bs).advance = { s with mem := (s.writeBytes a bs).advance.mem, pc := s.pc + 2 } := by
  rw [State.writeBytes_eq]
  rfl

/-- Byte `k` of a store is read back at I + k. -/
theorem State.readByte_writeBytes_ea {bs : List Byte} {k : Nat} {b : Byte} (h : bs[k]? = some b) :
    (s.writeBytes (s.ea 0) bs).readByte (s.ea k) = b := by
  have hfrom : s.ea 0 ≤ s.ea k := Nat.add_le_add_left (Nat.zero_le k) _
  have hoffset : s.ea k - s.ea 0 = k := Nat.add_sub_cancel_left _ _
  rw [State.readByte_writeBytes, if_pos hfrom, hoffset, List.getD_eq_getElem?_getD, h, Option.getD_some]

/-- An address that is no I + k of a store reads as before. -/
theorem State.readByte_writeBytes_of_ne {bs : List Byte} {a : Nat} (h : ∀ k < bs.length, a ≠ s.ea k) :
    (s.writeBytes (s.ea 0) bs).readByte a = s.readByte a := by
  rw [State.readByte_writeBytes]
  split
  case isFalse => rfl
  case isTrue hfrom =>
    have hpast : bs.length ≤ a - s.ea 0 := by
      by_contra hin
      exact h (a - s.ea 0) (Nat.lt_of_not_le hin) (Nat.add_sub_cancel' hfrom).symm
    rw [List.getD_eq_getElem?_getD, List.getElem?_eq_none hpast, Option.getD_none]

/-! ### Decimal digits (R193) -/

theorem exec_ldB (hx : s.readable (.v x) = true) (hi : s.readable .i = true) : exec (.ldB x) s =
    s.settle (checkRange (checkWrite s.params.fontWritePolicy) (s.ea 0) 3 >>= fun _ =>
      .ok (s.writeBytes (s.ea 0) (bcdDigits s.v[x])).advance) := by
  rw [exec, execLdB, State.readV_ok hx, State.readI_ok hi, checked_ok_bind, checked_ok_bind]

/-- Each digit of a byte fits a byte. -/
theorem toNat_digits (b : Byte) :
    (BitVec.ofNat 8 (b.toNat / 100)).toNat = b.toNat / 100 ∧
    (BitVec.ofNat 8 (b.toNat / 10 % 10)).toNat = b.toNat / 10 % 10 ∧
    (BitVec.ofNat 8 (b.toNat % 10)).toNat = b.toNat % 10 := by
  have := b.isLt
  simp only [BitVec.toNat_ofNat]
  omega

/-! ### Block store and block load (R194, R195) -/

theorem exec_ldMemVx (hi : s.readable .i = true) (hv : ∀ k ≤ x, s.readable (.v k) = true) : exec (.ldMemVx x) s =
    s.settle (checkRange (checkWrite s.params.fontWritePolicy) (s.ea 0) (x.val + 1) >>= fun _ =>
      .ok (s.storeBlock x).advance) := by
  have hread : s.readRegs (blockRegs x) = .ok ((blockRegs x).map fun k => s.v[k]) :=
    State.readRegs_ok fun k hk => hv k (mem_blockRegs.1 hk)
  rw [exec, execLdMemVx, State.readI_ok hi, hread, checked_ok_bind, checked_ok_bind]
  rfl

theorem State.readByte_storeBlock_of_ne {a : Nat} (h : ∀ k : Reg, k ≤ x → a ≠ s.ea k.val) :
    (s.storeBlock x).readByte a = s.readByte a := by
  refine State.readByte_writeBytes_of_ne fun k hk => ?_
  rw [List.length_map, blockRegs_length] at hk
  exact h ⟨k, by omega⟩ (Nat.le_of_lt_succ hk)

theorem exec_ldVxMem (hi : s.readable .i = true) : exec (.ldVxMem x) s =
    s.settle (checkRange checkRead (s.ea 0) (x.val + 1) >>= fun _ => .ok (s.loadRegs (blockRegs x)).advance) := by
  rw [exec, execLdVxMem, State.readI_ok hi, checked_ok_bind]

/-- A block load, then the next instruction: V0..Vx are written from memory and nothing else is. -/
theorem regsWritten_loadRegs (s : State) (x : Reg) :
    RegsWritten s (s.loadRegs (blockRegs x)).advance
      (fun r => if r ≤ x then some (s.readByte (s.ea r.val)) else none) (s.pc + 2) where
  v r := by
    refine (s.loadRegs_v (blockRegs x) r).trans ?_
    simp only [mem_blockRegs]
    split <;> rfl
  written r := by
    refine (s.loadRegs_written (blockRegs x) r).trans ?_
    simp only [mem_blockRegs]
    split <;> simp [*]
  pc := by rw [State.loadRegs_eq]; rfl
  rest := by rw [State.loadRegs_eq]; rfl
  memory a := by rw [State.loadRegs_eq]; rfl

/-! ### The settled statements -/

/-- Settles O29: the digits are the three stored bytes, and the three addresses are checked before any is stored. -/
theorem decimalDigitsStored : Obligations.DecimalDigitsStored := by
  intro x s
  refine ⟨decodesTo_misc 0x3 0x3 rfl, fun hx hi => ⟨fun hw => ?_, fun k hk => store_faults (exec_ldB hx hi) hk⟩⟩
  have hexec := exec_of_checkRange_ok (exec_ldB hx hi) fun k hk => checkWrite_of_writableAddr (hw k hk)
  obtain ⟨hundreds, tens, units⟩ := toNat_digits s.v[x]
  refine ⟨_, hexec, s.writeBytes_advance_eq _ _, ?_, ?_, ?_, fun a ha => State.readByte_writeBytes_of_ne ha⟩
  · exact (congrArg BitVec.toNat (State.readByte_writeBytes_ea (k := 0) rfl)).trans hundreds
  · exact (congrArg BitVec.toNat (State.readByte_writeBytes_ea (k := 1) rfl)).trans tens
  · exact (congrArg BitVec.toNat (State.readByte_writeBytes_ea (k := 2) rfl)).trans units

/-- Settles O30: the registers are the stored bytes, and every address is checked before any is stored. -/
theorem blockStoreWritesRegisters : Obligations.BlockStoreWritesRegisters := by
  intro x s
  refine ⟨decodesTo_misc 0x5 0x5 rfl, fun hi hv => ⟨fun hw => ?_, fun k hk before => ?_⟩⟩
  · exact ⟨_, exec_ldMemVx_ok hi hv hw, s.writeBytes_advance_eq _ _, fun k => State.readByte_storeBlock,
      fun a => State.readByte_storeBlock_of_ne⟩
  · exact store_faults (exec_ldMemVx hi hv) (Nat.lt_succ_of_le hk) fun j hj => before ⟨j, hj.trans k.isLt⟩ hj

/-- Settles O31: the last address is the largest, so it alone decides whether the whole block is in range. -/
theorem blockLoadReadsRegisters : Obligations.BlockLoadReadsRegisters := by
  intro x s
  refine ⟨decodesTo_misc 0x6 0x5 rfl, fun hi => ⟨fun hlast => ?_, fun k hk before habove => ?_⟩⟩
  · refine ⟨_, exec_of_checkRange_ok (exec_ldVxMem hi) fun k hk => checkRead_ok ?_, regsWritten_loadRegs s x⟩
    exact (Nat.add_le_add_left (Nat.le_of_lt_succ hk) _).trans hlast
  · exact faultsWith_of_checkRange (exec_ldVxMem hi) (Nat.lt_succ_of_le hk)
      (fun j hj => checkRead_ok (before ⟨j, hj.trans k.isLt⟩ hj)) (checkRead_error habove)

/-- Settles O27: each form writes I and moves on, and only Fx29 reads a register. -/
theorem loadIndexForms : Obligations.LoadIndexForms := by
  intro nnn x s
  refine ⟨decodesTo_of_encode rfl, decodesTo_misc 0x2 0x9 rfl, ?_, exec_ldF_ok⟩
  rw [exec_ldI, BitVec.ofNat_toNat]
  rfl

/-- Settles O28: I holds the sum reduced by the modulus I_ADD_WRAP names. -/
theorem addIndexWraps : Obligations.AddIndexWraps := by
  intro x s
  refine ⟨decodesTo_misc 0x1 0xE rfl, fun hi hx => ⟨_, exec_addI_ok hi hx, rfl, fun hwrap => ?_, fun hwrap => ?_⟩⟩
  · refine (toNat_ofNat_mod_modulus _ _).trans ?_
    rw [hwrap, modulus]
  · refine (toNat_ofNat_mod_modulus _ _).trans ?_
    rw [hwrap, modulus]

end Sys2Proof.Machine

/-! SUPPORT. What CLS and DRW answer, the blitter's facts read as facts about the rows at I, and the settled statements
of 44_display. -/
namespace Sys2Proof.Machine

variable {s : State} {x y : Reg} {px py : Byte} {X : Fin 64} {Y : Fin 32}

/-! ### The rows at I are what the sprite hits (R213, R215) -/

theorem State.length_readBytes (s : State) (a n : Nat) : (s.readBytes a n).length = n := by
  rw [State.readBytes, List.length_map, List.length_range]

/-- Row `i` of a sprite at I is the byte at I + i. -/
theorem State.getElem_readBytes_ea (s : State) {n i : Nat} (hi : i < (s.readBytes (s.ea 0) n).length) :
    (s.readBytes (s.ea 0) n)[i] = s.readByte (s.ea i) := by
  simp only [State.readBytes, List.getElem_map, List.getElem_range]
  rfl

theorem State.mem_readBytes_ea {n : Nat} {b : Byte} :
    b ∈ s.readBytes (s.ea 0) n ↔ ∃ i < n, s.readByte (s.ea i) = b := by
  simp only [List.mem_iff_getElem, State.getElem_readBytes_ea, State.length_readBytes, exists_prop]

theorem targetX_eq_iff {j : Nat} : targetX px j = X ↔ X.val = (px.toNat + j) % 64 := by
  rw [Fin.ext_iff, eq_comm]
  rfl

theorem targetY_eq_iff {i : Nat} : targetY py i = Y ↔ Y.val = (py.toNat + i) % 32 := by
  rw [Fin.ext_iff, eq_comm]
  rfl

/-- The blitter's targets are the pixels the statements call hit. -/
theorem mem_spriteTargets_iff_spriteHits {n : Nat} :
    (X, Y) ∈ spriteTargets px py 0 (s.readBytes (s.ea 0) n) ↔ SpriteHits s px py n X Y := by
  simp only [mem_spriteTargets, State.getElem_readBytes_ea, State.length_readBytes, Nat.zero_add, targetX_eq_iff,
    targetY_eq_iff, exists_prop]
  rfl

/-- A sprite hits some pixel exactly when one of its row bytes is not 0. -/
theorem exists_spriteHits_iff {n : Nat} :
    (∃ X Y, SpriteHits s px py n X Y) ↔ ∃ i < n, s.readByte (s.ea i) ≠ 0 := by
  constructor
  · rintro ⟨-, -, i, hi, j, hj, hbit, -, -⟩
    exact ⟨i, hi, (row_ne_zero_iff _).2 ⟨j, hj, hbit⟩⟩
  · rintro ⟨i, hi, hrow⟩
    obtain ⟨j, hj, hbit⟩ := (row_ne_zero_iff _).1 hrow
    exact ⟨targetX px j, targetY py i, i, hi, j, hj, hbit, rfl, rfl⟩

/-- What a sprite hits depends on I and its rows alone. -/
theorem spriteHits_congr {m : State} {n : Nat} (hi : m.i = s.i)
    (hrows : ∀ i < n, m.readByte (s.ea i) = s.readByte (s.ea i)) :
    SpriteHits m px py n X Y ↔ SpriteHits s px py n X Y := by
  refine exists_congr fun k => and_congr_right fun hk => ?_
  have hea : m.ea k = s.ea k := congrArg (·.toNat + k) hi
  rw [hea, hrows k hk]

/-! ### What a draw writes (R211 to R216) -/

/-- One of the pixels hit was 1: what VF reports (R211, R213). -/
def State.collides (s : State) (px py : Byte) (n : Nat) : Bool := (blit px py (s.readBytes (s.ea 0) n) s.fb).collision

/-- VF is the one register a draw writes, beside the pixels and DIRTY. -/
theorem regsWritten_draw (s : State) (px py : Byte) (n : Nat) :
    RegsWritten { s with fb := (s.draw px py n).fb, dirty := (s.draw px py n).dirty } (s.draw px py n)
      (fun r => if r = 15 then some (flagByte (s.collides px py n)) else none) (s.pc + 2) :=
  regsWritten_setV { s with fb := (s.draw px py n).fb, dirty := (s.draw px py n).dirty } 15 _

theorem flagByte_eq_one {b : Bool} : flagByte b = 1 ↔ b = true := by
  revert b
  decide

/-- With no rows only VF is written (R217). -/
theorem State.draw_zero (s : State) (px py : Byte) : s.draw px py 0 = (s.setFlag false).advance := by
  have hdirty : (s.dirty || false) = s.dirty := Bool.or_false _
  show ({ s with dirty := s.dirty || false }.setFlag false).advance = _
  rw [hdirty]

section Draw

variable {n : Fin 16}

/-- A sprite has fewer rows than the grid has lines, so no two of its bits share a target. -/
theorem State.length_rows_le (s : State) (n : Fin 16) : (s.readBytes (s.ea 0) n.val).length ≤ 32 := by
  rw [State.length_readBytes]
  omega

theorem State.draw_pixel : (s.draw px py n.val).fb[X][Y] = true ↔
    (s.fb[X][Y] = true ↔ ¬ SpriteHits s px py n.val X Y) := by
  obtain ⟨hflip, -, -⟩ := blit_spec px py s.fb (s.length_rows_le n)
  have hpixel : (s.draw px py n.val).fb[X][Y] = (s.fb[X][Y] ^^ decide _) := hflip X Y
  rw [hpixel, ← mem_spriteTargets_iff_spriteHits]
  cases s.fb[X][Y] <;> simp

theorem State.draw_dirty : (s.draw px py n.val).dirty = true ↔
    s.dirty = true ∨ ∃ i < n.val, s.readByte (s.ea i) ≠ 0 := by
  obtain ⟨-, -, hchanged⟩ := blit_spec px py s.fb (s.length_rows_le n)
  refine (Bool.or_eq_true_iff ..).trans (or_congr_right (hchanged.trans ?_))
  simp only [State.mem_readBytes_ea, exists_exists_and_eq_and]

theorem State.collides_iff : s.collides px py n.val = true ↔
    ∃ X Y, s.fb[X][Y] = true ∧ SpriteHits s px py n.val X Y := by
  obtain ⟨-, hcollision, -⟩ := blit_spec px py s.fb (s.length_rows_le n)
  refine hcollision.trans (exists₂_congr fun X Y => ?_)
  rw [mem_spriteTargets_iff_spriteHits, and_comm]
  rfl

theorem State.draw_vf : (s.draw px py n.val).v[(15 : Reg)] = 1 ↔ s.collides px py n.val = true := by
  rw [(regsWritten_draw s px py n.val).v 15]
  exact flagByte_eq_one

/-! ### A second draw of the same rows (R218) -/

section Second

variable {m : State} (hfb : m.fb = (s.draw px py n.val).fb)
  (hhits : ∀ X Y, SpriteHits m px py n.val X Y ↔ SpriteHits s px py n.val X Y)
include hfb hhits

/-- A pixel flipped twice is as it was. -/
theorem State.draw_draw_fb : (m.draw px py n.val).fb = s.fb := by
  refine framebuffer_ext fun X Y => Bool.eq_iff_iff.2 ?_
  have hfirst := State.draw_pixel (s := s) (px := px) (py := py) (n := n) (X := X) (Y := Y)
  refine State.draw_pixel.trans ?_
  rw [hhits, hfb, hfirst]
  show _ ↔ s.fb[X][Y] = true
  tauto

/-- The pixels hit that the first draw left 1 are those it turned from 0 to 1. -/
theorem State.collides_second_iff : m.collides px py n.val = true ↔
    ∃ (X : Fin 64) (Y : Fin 32), s.fb[X][Y] = false ∧ (s.draw px py n.val).fb[X][Y] = true := by
  refine State.collides_iff.trans (exists₂_congr fun X Y => ?_)
  rw [hhits, hfb, State.draw_pixel, ← Bool.not_eq_true]
  tauto

/-- On pixels that were all 0, every hit of the first draw collides with the second. -/
theorem State.collides_second_iff_of_blank (hblank : ∀ X Y, SpriteHits s px py n.val X Y → s.fb[X][Y] = false) :
    m.collides px py n.val = true ↔ ∃ i < n.val, s.readByte (s.ea i) ≠ 0 := by
  rw [State.collides_iff, ← exists_spriteHits_iff]
  refine exists₂_congr fun X Y => ?_
  rw [hhits, hfb, State.draw_pixel]
  have hoff : SpriteHits s px py n.val X Y → ¬ s.fb[X][Y] = true := fun h => Bool.not_eq_true _ ▸ hblank X Y h
  tauto

end Second

/-! ### What DRW answers (R211) -/

theorem State.readRowBase_ok {n : Nat} (hi : n ≠ 0 → s.readable .i = true) : s.readRowBase n = .ok s.i := by
  rw [State.readRowBase]
  split
  · rfl
  · exact State.readI_ok (hi ‹_›)

theorem exec_drw (hx : s.readable (.v x) = true) (hy : s.readable (.v y) = true)
    (hi : n.val ≠ 0 → s.readable .i = true) : exec (.drw x y n) s =
    s.settle (checkRange checkRead (s.ea 0) n.val >>= fun _ => .ok (s.draw s.v[x] s.v[y] n.val)) := by
  rw [exec, execDrw, State.readV_ok hx, State.readV_ok hy, State.readRowBase_ok hi, checked_ok_bind, checked_ok_bind,
    checked_ok_bind]

theorem exec_drw_ok (h : DrawEnabled s x y n) : exec (.drw x y n) s = .next (s.draw s.v[x] s.v[y] n.val) := by
  obtain ⟨hx, hy, hi, hrows⟩ := h
  exact exec_of_checkRange_ok (exec_drw hx hy hi) fun k hk => checkRead_ok (hrows k hk)

end Draw

/-! ### The settled statements -/

/-- Settles O34: the blitter's targets are the pixels hit, and every row's address is checked before any pixel is
flipped. -/
theorem drawXorsSpriteAndReportsCollision : Obligations.DrawXorsSpriteAndReportsCollision := by
  intro x y n s
  refine ⟨decodesTo_of_encode rfl, fun hdraw => ?_, fun hx hy hi i hin before habove => ?_⟩
  · refine ⟨_, flagByte (s.collides s.v[x] s.v[y] n.val), exec_drw_ok hdraw, fun X Y => State.draw_pixel, ?_,
      State.draw_dirty, regsWritten_draw s s.v[x] s.v[y] n.val⟩
    rw [← State.collides_iff]
    cases s.collides s.v[x] s.v[y] n.val with
    | true => exact .inl ⟨rfl, rfl⟩
    | false => exact .inr ⟨rfl, Bool.false_ne_true⟩
  · exact faultsWith_of_checkRange (exec_drw hx hy fun _ => hi) hin (fun j hj => checkRead_ok (before j hj))
      (checkRead_error habove)

/-- Settles O35: both draws hit the same pixels, so the second flips back what the first flipped, and it collides
where the first turned a pixel on. -/
theorem drawTwiceRestoresDisplay : Obligations.DrawTwiceRestoresDisplay := by
  intro x y n s t m u hs hm ht hu hfb hvx hvy hi hrows
  obtain rfl : s.draw s.v[x] s.v[y] n.val = t := Host.Outcome.next.inj ((exec_drw_ok hs).symm.trans ht)
  obtain rfl : m.draw s.v[x] s.v[y] n.val = u := by
    rw [← hvx, ← hvy]
    exact Host.Outcome.next.inj ((exec_drw_ok hm).symm.trans hu)
  have hhits : ∀ X Y, SpriteHits m s.v[x] s.v[y] n.val X Y ↔ SpriteHits s s.v[x] s.v[y] n.val X Y :=
    fun X Y => spriteHits_congr hi hrows
  exact ⟨State.draw_draw_fb hfb hhits, State.draw_vf.trans (State.collides_second_iff hfb hhits),
    fun hblank => State.draw_vf.trans (State.collides_second_iff_of_blank hfb hhits hblank)⟩

/-- Settles O33: CLS reads nothing and writes the blank framebuffer whatever the pixels were. -/
theorem clearBlanksAndMarksDirty : Obligations.ClearBlanksAndMarksDirty := by
  intro s
  exact ⟨decodesTo_of_encode rfl, _, rfl, fun X Y => pixel_blankFb (Fin.ofNat 64 X) (Fin.ofNat 32 Y), rfl⟩

/-- Settles O36: with no rows nothing of memory or of I is read or checked, and no pixel is hit. -/
theorem drawOfNoRowsOnlyClearsFlag : Obligations.DrawOfNoRowsOnlyClearsFlag := by
  intro x y s hx hy
  have henabled : DrawEnabled s x y 0 := ⟨hx, hy, absurd rfl, fun _ h => absurd h (Nat.not_lt_zero _)⟩
  refine exec_writes_reg (x := 15) (b := flagByte false) ?_ rfl
  exact (exec_drw_ok henabled).trans (congrArg _ (s.draw_zero s.v[x] s.v[y]))

end Sys2Proof.Machine

/-! SUPPORT. What the key skips, the timer moves, the key wait, the key poll and a tick answer, the mode each operation
ends in, and the settled statements of 45_keypad_timers. -/
namespace Sys2Proof.Machine

variable {s t : State} {i : Instr} {x : Reg} {k : Fin 16}

/-! ### The key skips (R230, R231) -/

/-- A class-E instruction by the number of its word, the sub-opcode's nibbles `c` and `d` counted in with the class. -/
theorem decodesTo_keys (c d : Nat) (h : encode i = nibbles 0xE x c d) :
    DecodesTo (0xE000 + (c * 16 + d) + x.val * 256) i := by
  refine decodesTo_of_encode (h.trans ?_)
  rw [nibbles]
  congr 1
  omega

theorem keyIndex_ok {b : Byte} (h : b.toNat = k.val) : keyIndex b = .ok k := by
  have hlt : b.toNat < 16 := h ▸ k.isLt
  rw [keyIndex, dif_pos hlt]
  exact congrArg _ (Fin.ext h)

theorem keyIndex_error {b : Byte} (h : b.toNat > 0xF) : keyIndex b = .error ⟨.keyIndexOutOfRange, b.toNat⟩ :=
  dif_neg (Nat.not_lt.2 h)

/-- Both skips once Vx is read: the check of the index is still open, and the test on the key is the rule's own. -/
theorem exec_skp (hx : s.readable (.v x) = true) :
    exec (.skp x) s = s.settle (keyIndex s.v[x] >>= fun k => .ok (s.skipIf s.key[k])) := by
  rw [exec, execSkp, State.readV_ok hx, checked_ok_bind]

theorem exec_sknp (hx : s.readable (.v x) = true) :
    exec (.sknp x) s = s.settle (keyIndex s.v[x] >>= fun k => .ok (s.skipIf (!s.key[k]))) := by
  rw [exec, execSknp, State.readV_ok hx, checked_ok_bind]

/-! ### The timer moves and the key wait (R232 to R235) -/

theorem exec_ldVxDt_ok (h : s.readable .dt = true) : exec (.ldVxDt x) s = .next (s.setV x s.dt).advance := by
  rw [exec, execLdVxDt, State.readDT_ok h, checked_ok_bind, State.settle_ok]

theorem exec_ldDtVx_ok (hx : s.readable (.v x) = true) : exec (.ldDtVx x) s = .next (s.setDT s.v[x]).advance := by
  rw [exec, execLdDtVx, State.readV_ok hx, checked_ok_bind, State.settle_ok]

theorem exec_ldStVx_ok (hx : s.readable (.v x) = true) : exec (.ldStVx x) s = .next (s.setST s.v[x]).advance := by
  rw [exec, execLdStVx, State.readV_ok hx, checked_ok_bind, State.settle_ok]

theorem exec_ldVxK (x : Reg) (s : State) :
    exec (.ldVxK x) s = .next { s with await := true, awaitX := x }.advance := rfl

/-! ### The key poll (R240, R241) -/

theorem act_step_of_awaitingKey (h : s.mode = .awaitingKey) : act .step s = .next s.keyPoll := by
  simp only [act, stepPort, h]

theorem State.firstPressed_pressed (h : s.firstPressed = some k) : s.key[k] = true :=
  List.find?_some (p := fun k : Fin 16 => s.key[k]) h

theorem State.keyPoll_none (h : s.firstPressed = none) : s.keyPoll = s := by
  rw [State.keyPoll, h]

theorem State.keyPoll_some (h : s.firstPressed = some k) :
    s.keyPoll = { s.setV s.awaitX (BitVec.ofNat 8 k.val) with await := false } := by
  rw [State.keyPoll, h]

/-! ### The timer tick (R250) -/

/-- Subtraction of naturals stops at 0, as the timer does. -/
theorem countDown_toNat (b : Byte) : (countDown b).toNat = b.toNat - 1 := by
  have := b.isLt
  unfold countDown
  split
  · rw [BitVec.toNat_ofNat]
    omega
  · omega

/-- A timer at 0 keeps its value and its written bit. -/
theorem State.tickDT_eq (s : State) : s.tickDT s.dt =
    { s with dt := countDown s.dt,
             written := { s.written with dt := s.written.dt || decide (s.dt.toNat > 0) } } := by
  by_cases h : s.dt.toNat > 0
  · rw [State.tickDT, if_pos h, decide_eq_true h, Bool.or_true]
    rfl
  · rw [State.tickDT, if_neg h, countDown, if_neg h, decide_eq_false h, Bool.or_false]

theorem State.tickST_eq (s : State) : s.tickST s.st =
    { s with st := countDown s.st,
             written := { s.written with st := s.written.st || decide (s.st.toNat > 0) } } := by
  by_cases h : s.st.toNat > 0
  · rw [State.tickST, if_pos h, decide_eq_true h, Bool.or_true]
    rfl
  · rw [State.tickST, if_neg h, countDown, if_neg h, decide_eq_false h, Bool.or_false]

/-- The state after a tick that reads both timers. -/
def State.ticked (s : State) : State :=
  { s with dt := countDown s.dt, st := countDown s.st,
           written := { s.written with dt := s.written.dt || decide (s.dt.toNat > 0),
                                       st := s.written.st || decide (s.st.toNat > 0) } }

theorem State.tickDT_tickST_eq (s : State) : (s.tickDT s.dt).tickST s.st = s.ticked := by
  rw [State.tickDT_eq]
  exact State.tickST_eq _

theorem act_tick_ok (hm : s.mode ≠ .faulted) (hdt : s.readable .dt = true) (hst : s.readable .st = true) :
    act .tick s = .next s.ticked := by
  rw [act, tick, if_neg hm, State.readDT_ok hdt, State.readST_ok hst, checked_ok_bind, checked_ok_bind,
    State.settle_ok, State.tickDT_tickST_eq]

/-! ### The mode an operation ends in (10_state R37, 45_keypad_timers R243)

MODE is a function of the fault registers and AWAIT. An instruction that completes leaves the fault registers, and only
Fx0A writes AWAIT, so each clause of the mode machine comes down to these two. -/

theorem State.mode_congr (hfault : t.fault = s.fault) (hawait : t.await = s.await) : t.mode = s.mode := by
  unfold State.mode
  rw [hfault, hawait]

theorem State.mode_raiseFault (s : State) (f : FaultInfo) : (s.raiseFault f).mode = .faulted :=
  State.mode_eq_faulted.2 (Option.some_ne_none f.cause)

theorem Completes.fault_eq (h : Completes i s t) : t.fault = s.fault := by
  cases i with
  | ret | call =>
    obtain ⟨-, rfl⟩ := h
    rfl
  | shr | shl | skp | sknp =>
    obtain ⟨a, rfl⟩ := h
    rfl
  | rnd x kk =>
    subst h
    rw [State.consumeByte_eq]
    rfl
  | ldB | ldMemVx =>
    obtain ⟨-, rfl⟩ := h
    rw [State.writeBytes_eq]
    rfl
  | ldVxMem x =>
    subst h
    rw [State.loadRegs_eq]
    rfl
  | _ =>
    subst h
    rfl

/-- From Running mode the core is Faulted exactly when the fault registers changed, for an operation that leaves them
or takes a fault. -/
theorem faulted_iff_fault_ne (hm : s.mode = .running) (h : t.fault = s.fault ∨ ∃ f, t = s.raiseFault f) :
    t.mode = .faulted ↔ t.fault ≠ s.fault := by
  obtain ⟨hcause, -⟩ := State.mode_eq_running.1 hm
  rw [State.mode_eq_faulted]
  rcases h with heq | ⟨f, rfl⟩
  · rw [heq]
    exact iff_of_false (not_not_intro hcause) (not_not_intro rfl)
  · refine iff_of_true (Option.some_ne_none f.cause) fun heq => ?_
    rw [← heq] at hcause
    exact Option.some_ne_none f.cause hcause

theorem exec_faulted_iff (hm : s.mode = .running) (h : exec i s = .next t) :
    t.mode = .faulted ↔ t.fault ≠ s.fault :=
  faulted_iff_fault_ne hm ((exec_cases h).symm.imp_left Completes.fault_eq)

/-- Fx0A cannot fault, and no other instruction writes AWAIT. -/
theorem exec_awaitingKey_iff (hm : s.mode = .running) (h : exec i s = .next t) :
    t.mode = .awaitingKey ↔ ∃ x, i = .ldVxK x := by
  obtain ⟨hcause, hawait⟩ := State.mode_eq_running.1 hm
  rw [State.mode_eq_awaitingKey]
  constructor
  · rintro ⟨-, ht⟩
    have hne : t.await ≠ s.await := by
      rw [ht, hawait]
      nofun
    exact (exec_frame h).await_writer (.inl hne)
  · rintro ⟨x, rfl⟩
    obtain rfl := Host.Outcome.next.inj h
    exact ⟨hcause, rfl⟩

/-- A step in Running mode by what it fetches: a fault of the fetch, an unrecognised word, or an instruction. -/
theorem act_step_modes (hm : s.mode = .running) (h : act .step s = .next t) :
    (t.mode = .awaitingKey ↔ ∃ w x, s.fetch = .ok w ∧ decodeWord w = some (.ldVxK x)) ∧
    (t.mode = .faulted ↔ t.fault ≠ s.fault) := by
  cases hf : s.fetch with
  | error f =>
    obtain rfl := Host.Outcome.next.inj ((act_step_of_fetch_error hm hf).symm.trans h)
    refine ⟨iff_of_false ?_ nofun, faulted_iff_fault_ne hm (.inr ⟨f, rfl⟩)⟩
    rw [State.mode_raiseFault]
    nofun
  | ok w =>
    simp only [Except.ok.injEq, exists_and_left, exists_eq_left']
    cases hd : decodeWord w with
    | none =>
      obtain rfl := Host.Outcome.next.inj ((act_step_of_unrecognized hm hf hd).symm.trans h)
      have hmode : (s.reportUnrecognized w).mode = .running := (State.mode_congr rfl rfl).trans hm
      refine ⟨iff_of_false ?_ nofun, faulted_iff_fault_ne hm (.inl rfl)⟩
      rw [hmode]
      nofun
    | some i =>
      rw [act_step_of_decoded hm hf hd] at h
      simp only [Option.some.injEq]
      exact ⟨exec_awaitingKey_iff hm h, exec_faulted_iff hm h⟩

/-- The poll ends the wait exactly when it finds a key, and cannot fault. -/
theorem keyPoll_modes (hm : s.mode = .awaitingKey) :
    (s.keyPoll.mode = .awaitingKey ∨ s.keyPoll.mode = .running) ∧
    (s.keyPoll.mode = .awaitingKey ↔ ∀ k : Fin 16, s.key[k] = false) := by
  cases hk : s.firstPressed with
  | none =>
    rw [State.keyPoll_none hk]
    refine ⟨.inl hm, iff_of_true hm fun k => ?_⟩
    have hnone : ¬ s.key[k] = true := List.find?_eq_none.1 hk k (List.mem_finRange k)
    exact Bool.eq_false_iff.2 hnone
  | some k =>
    obtain ⟨hcause, -⟩ := State.mode_eq_awaitingKey.1 hm
    have hrunning : s.keyPoll.mode = .running := by
      rw [State.keyPoll_some hk]
      exact State.mode_eq_running.2 ⟨hcause, rfl⟩
    refine ⟨.inr hrunning, iff_of_false ?_ fun hall => ?_⟩
    · rw [hrunning]
      nofun
    · exact Bool.false_ne_true ((hall k).symm.trans (State.firstPressed_pressed hk))

/-- A port operation other than `step` and `load` keeps the mode, but for a tick that faults. -/
theorem act_keeps_mode {op : PortOp} (hstep : op ≠ .step) (hload : ∀ bytes, op ≠ .load bytes)
    (h : act op s = .next t) : t.mode = s.mode ∨ op = .tick ∧ t.mode = .faulted := by
  cases act_cases h with
  | faults _ f hop => exact .inr ⟨hop.resolve_left hstep, s.mode_raiseFault f⟩
  | ticks _ =>
    rw [State.tickDT_tickST_eq]
    exact .inl (State.mode_congr rfl rfl)
  | sets | acknowledges => exact .inl (State.mode_congr rfl rfl)
  | loads bytes => exact absurd rfl (hload bytes)
  | completes | reports | polls => exact absurd rfl hstep

theorem act_step_of_faulted (h : s.mode = .faulted) : act .step s = .fault (.stepDisabled s.fault) := by
  simp only [act, stepPort, h]

theorem load_of_leaves_faulted {op : PortOp} (hm : s.mode = .faulted) (h : act op s = .next t)
    (ht : t.mode ≠ .faulted) : ∃ bytes, op = .load bytes := by
  by_contra hload
  have hstep : op ≠ .step := by
    rintro rfl
    rw [act_step_of_faulted hm] at h
    cases h
  rcases act_keeps_mode hstep (fun bytes e => hload ⟨bytes, e⟩) h with hsame | ⟨-, hfaulted⟩
  · exact ht (hsame.trans hm)
  · exact ht hfaulted

/-! ### The settled statements -/

/-- Settles O11: each clause is the lemma on the modes of that operation. -/
theorem modesChangeOnlyAsStated : Obligations.ModesChangeOnlyAsStated := by
  refine ⟨fun i s t hm h => ⟨exec_awaitingKey_iff hm h, exec_faulted_iff hm h⟩,
    fun s t hm h => act_step_modes hm h, fun s t hm h => ?_, fun op s t hstep hload h => act_keeps_mode hstep hload h,
    fun op s t hm h ht => load_of_leaves_faulted hm h ht⟩
  obtain rfl := Host.Outcome.next.inj ((act_step_of_awaitingKey hm).symm.trans h)
  exact ⟨(sameControl_keyPoll s).pc, keyPoll_modes hm⟩

/-- Settles O10: by whether a key is pressed; the least one is the one the poll finds. -/
theorem keyPollTakesLeastPressedKey : Obligations.KeyPollTakesLeastPressedKey := by
  intro s hm
  refine ⟨fun hnone => ?_, fun k hk hleast => ?_⟩
  · rw [act_step_of_awaitingKey hm, State.keyPoll_none (State.firstPressed_eq_none hnone)]
  · rw [act_step_of_awaitingKey hm, State.keyPoll_some (State.firstPressed_eq_some hk hleast)]
    rfl

/-- Settles O37: by whether the index passes its check; each test decides the condition of its rule. -/
theorem keySkips : Obligations.KeySkips := by
  intro x s
  refine ⟨decodesTo_keys 0x9 0xE rfl, decodesTo_keys 0xA 0x1 rfl,
    fun hx => ⟨fun k hk => ⟨?_, ?_⟩, fun hout => ⟨?_, ?_⟩⟩⟩
  · rw [exec_skp hx, keyIndex_ok hk, checked_ok_bind, State.settle_ok, State.skipIf_of_iff Iff.rfl]
  · rw [exec_sknp hx, keyIndex_ok hk, checked_ok_bind, State.settle_ok,
      State.skipIf_of_iff (Bool.not_eq_true' _).to_iff]
  · rw [exec_skp hx, keyIndex_error hout]
    rfl
  · rw [exec_sknp hx, keyIndex_error hout]
    rfl

/-- Settles O38: one register moved to another in each. -/
theorem timerMoves : Obligations.TimerMoves := by
  intro x s
  exact ⟨decodesTo_misc 0x0 0x7 rfl, decodesTo_misc 0x1 0x5 rfl, decodesTo_misc 0x1 0x8 rfl,
    fun hdt => exec_writes_reg (exec_ldVxDt_ok hdt) rfl, fun hx => ⟨exec_ldDtVx_ok hx, exec_ldStVx_ok hx⟩⟩

/-- Settles O39: nothing is read, so nothing can fault. -/
theorem keyWaitEntered : Obligations.KeyWaitEntered := by
  intro x s
  exact ⟨decodesTo_misc 0x0 0xA rfl, exec_ldVxK x s⟩

/-- Settles O40: both timers are read, then each counts down. -/
theorem tickCountsDownToZero : Obligations.TickCountsDownToZero := by
  intro s hm hdt hst
  exact ⟨s.ticked, act_tick_ok hm hdt hst, countDown_toNat s.dt, countDown_toNat s.st, rfl, rfl, rfl⟩

end Sys2Proof.Machine

/-! SUPPORT. What Faulted mode admits, what a fault changes, and in which order an instruction and a tick check their
register reads; and the settled statements of 60_exceptions. -/
namespace Sys2Proof.Machine

variable {s t : State} {i : Instr} {α β : Type}

/-! ### Faulted mode (R265) -/

theorem act_tick_of_faulted (h : s.mode = .faulted) : act .tick s = .fault (.tickDisabled s.fault) :=
  if_pos h

/-- `step` and `tick` answer no next state in Faulted mode, and the two ports that act leave the fault registers. -/
theorem act_keeps_fault_of_faulted {op : PortOp} (hm : s.mode = .faulted) (hload : ∀ bytes, op ≠ .load bytes)
    (h : act op s = .next t) : t.fault = s.fault := by
  cases op with
  | step =>
    rw [act_step_of_faulted hm] at h
    cases h
  | tick =>
    rw [act_tick_of_faulted hm] at h
    cases h
  | keySet | presentAck =>
    obtain rfl := Host.Outcome.next.inj h
    rfl
  | load bytes => exact absurd rfl (hload bytes)

/-- MODE is Faulted by the fault registers alone (10_state R37). -/
theorem State.mode_faulted_of_fault_eq (hm : s.mode = .faulted) (h : t.fault = s.fault) : t.mode = .faulted := by
  rw [State.mode_eq_faulted, h]
  exact State.mode_eq_faulted.1 hm

/-- A load that fits leaves no cause and no wait, whatever the mode was (70_reset_and_hazards R290). -/
theorem State.load_mode_of_fits {bytes : List Byte} (h : imageFits bytes = true) : (s.load bytes).mode = .running := by
  rw [State.load, if_pos h]
  exact State.mode_eq_running.2 ⟨rfl, rfl⟩

/-! ### The order of the register reads (R263, R264)

An instruction checks its registers before anything else that can fault. `ReadsInOrder` says so of a computation, and
its lemmas follow the way the instructions are written: a read first, then the rest. -/

/-- Unless every register of `rs` is readable, the computation ends in UNWRITTEN_READ on the first that is not. -/
def State.ReadsInOrder (s : State) (rs : List RegId) (c : Checked α) : Prop :=
  ∀ r, rs.find? (fun q => !s.readable q) = some r → c = .error ⟨.unwrittenRead, r.id⟩

/-- A computation that reads nothing is held to nothing. -/
theorem readsInOrder_nil (c : Checked α) : s.ReadsInOrder [] c := nofun

/-- A read comes first, and the reads of what follows come after it. -/
theorem readsInOrder_readReg_bind {r : RegId} {rs : List RegId} {a : α} {k : α → Checked β}
    (h : s.ReadsInOrder rs (k a)) : s.ReadsInOrder (r :: rs) (s.readReg r a >>= k) := by
  intro q hq
  cases hr : s.readable r with
  | true =>
    rw [State.readReg_ok hr, checked_ok_bind]
    exact h q (by simpa [hr] using hq)
  | false =>
    obtain rfl : r = q := by simpa [hr] using hq
    rw [State.readReg_error hr, checked_error_bind]

/-- What follows the reads cannot hide the fault of one of them. -/
theorem State.ReadsInOrder.bind {rs : List RegId} {c : Checked α} (h : s.ReadsInOrder rs c) (k : α → Checked β) :
    s.ReadsInOrder rs (c >>= k) := by
  intro r hr
  rw [h r hr, checked_error_bind]

/-- One register read, and no other. -/
theorem readsInOrder_readReg (r : RegId) (a : α) : s.ReadsInOrder [r] (s.readReg r a) := by
  rw [← bind_pure (s.readReg r a)]
  exact readsInOrder_readReg_bind (readsInOrder_nil _)

theorem readsInOrder_readPair (x y : Reg) : s.ReadsInOrder [.v x, .v y] (s.readPair x y) :=
  readsInOrder_readReg_bind ((readsInOrder_readReg _ _).bind _)

/-- Under SHIFT_SOURCE = Vx the register Vy is not read (42_register_alu R169). -/
theorem readsInOrder_shiftOperand (x y : Reg) :
    s.ReadsInOrder (if s.params.shiftSource = .vx then [.v x] else [.v x, .v y]) (s.shiftOperand x y) := by
  rw [State.shiftOperand]
  cases s.params.shiftSource with
  | vx => exact readsInOrder_readReg (.v x) s.v[x]
  | vy => exact (readsInOrder_readPair x y).bind _

theorem readsInOrder_readRegs (xs : List Reg) : s.ReadsInOrder (xs.map .v) (s.readRegs xs) := by
  induction xs with
  | nil => exact readsInOrder_nil _
  | cons x xs ih => exact readsInOrder_readReg_bind (ih.bind _)

/-- Every arm ends in `settle`, of a computation that first reads the registers `readsOf` lists. -/
theorem exec_eq_settle (i : Instr) (s : State) :
    ∃ c, exec i s = s.settle c ∧ s.ReadsInOrder (readsOf s.params i) c := by
  cases i with
  | cls | jp | ldImm | ldI | rnd | ldVxK => exact ⟨.ok _, rfl, readsInOrder_nil _⟩
  | ret | call => exact ⟨_, rfl, readsInOrder_nil _⟩
  | seImm | sneImm | addImm | ldF | skp | sknp | ldDtVx | ldStVx | jpV0 | ldVxDt | ldVxMem =>
    exact ⟨_, rfl, (readsInOrder_readReg _ _).bind _⟩
  | seReg x y | sneReg x y | ldReg x y | orReg x y | andReg x y | xorReg x y | addReg x y | sub x y | subn x y =>
    exact ⟨_, rfl, (readsInOrder_readPair x y).bind _⟩
  | shr x y | shl x y => exact ⟨_, rfl, (readsInOrder_shiftOperand x y).bind _⟩
  | addI | ldB => exact ⟨_, rfl, readsInOrder_readReg_bind ((readsInOrder_readReg _ _).bind _)⟩
  | ldMemVx x => exact ⟨_, rfl, readsInOrder_readReg_bind ((readsInOrder_readRegs (blockRegs x)).bind _)⟩
  | drw x y n =>
    refine ⟨_, rfl, ?_⟩
    rw [readsOf]
    by_cases hn : n.val = 0
    · rw [if_pos hn]
      exact readsInOrder_readReg_bind ((readsInOrder_readReg _ _).bind _)
    · rw [if_neg hn, State.readRowBase, if_neg hn]
      exact readsInOrder_readReg_bind (readsInOrder_readReg_bind ((readsInOrder_readReg _ _).bind _))

theorem act_tick_eq_settle (hm : s.mode ≠ .faulted) :
    ∃ c, act .tick s = s.settle c ∧ s.ReadsInOrder [.dt, .st] c :=
  ⟨_, if_neg hm, readsInOrder_readReg_bind ((readsInOrder_readReg _ _).bind _)⟩

/-- A step that reads `rs` in order faults on the first unreadable register of it, and on nothing before. -/
theorem State.ReadsInOrder.faultsWith {c : Checked State} {before after : List RegId} {r : RegId}
    (h : s.ReadsInOrder (before ++ r :: after) c) (hbefore : ∀ q ∈ before, s.readable q = true)
    (hr : ¬ s.readable r = true) : FaultsWith s (s.settle c) .unwrittenRead r.id := by
  have hfirst : (before ++ r :: after).find? (fun q => !s.readable q) = some r :=
    List.find?_eq_some_iff_append.2 ⟨by simpa using hr, before, after, rfl, by simpa using hbefore⟩
  rw [h r hfirst]
  rfl

/-- Under RESET_REGS = Unwritten a register is readable when its written bit is set (R263). -/
theorem State.readable_of_unwritten (h : s.params.resetRegs = .unwritten) (r : RegId) :
    s.readable r = s.written.get r := by
  rw [State.readable, h]
  rfl

/-! ### The settled statements -/

/-- Settles O54: the reads of an instruction, and of a tick, come before all else and in the stated order. -/
theorem unwrittenReadFaults : Obligations.UnwrittenReadFaults := by
  refine ⟨fun s r hzero => State.readable_of_zero hzero r,
    fun s r hunwritten => by rw [State.readable_of_unwritten hunwritten r],
    ⟨fun x => rfl, rfl, rfl, rfl⟩, fun i s before after r hreads hbefore hr => ?_,
    fun s hm => ⟨fun hdt => ?_, fun hdt hst => ?_⟩⟩
  · obtain ⟨c, hexec, hc⟩ := exec_eq_settle i s
    rw [hexec]
    rw [hreads] at hc
    exact hc.faultsWith hbefore hr
  · obtain ⟨c, htick, hc⟩ := act_tick_eq_settle hm
    rw [htick]
    exact hc.faultsWith (before := []) nofun hdt
  · obtain ⟨c, htick, hc⟩ := act_tick_eq_settle hm
    rw [htick]
    exact hc.faultsWith (before := [.dt]) (by simpa using hdt) hst

/-- Settles O9: the two disabled ports end the run, the two enabled ones leave the fault registers, and a load that
fits resets them. -/
theorem faultedModeIsAbsorbing : Obligations.FaultedModeIsAbsorbing := by
  intro s hm
  refine ⟨act_step_of_faulted hm, act_tick_of_faulted hm, fun k b => rfl, rfl, fun op t hload h => ?_,
    fun bytes hlen => ⟨s.load bytes, rfl, State.load_mode_of_fits (decide_eq_true hlen)⟩⟩
  have hfault : t.fault = s.fault := act_keeps_fault_of_faulted hm hload h
  exact ⟨State.mode_faulted_of_fault_eq hm hfault, hfault⟩

/-- Settles O51: an instruction that completes leaves the fault registers, so one that changed them faulted. -/
theorem faultsArePrecise : Obligations.FaultsArePrecise := by
  intro i s t h hne
  rcases exec_cases h with ⟨f, rfl⟩ | hc
  · exact ⟨f.cause, _, rfl⟩
  · exact absurd hc.fault_eq hne

/-- Settles O12: every arm ends in `settle`, which answers a next state for a result and for a fault. -/
theorem execAlwaysAnswersNextState : Obligations.ExecAlwaysAnswersNextState := by
  intro i s
  obtain ⟨c, hexec, -⟩ := exec_eq_settle i s
  rw [hexec]
  exact s.settle_next c

end Sys2Proof.Machine

/-! SUPPORT. The values a load leaves in the registers and in memory, the step of a parked core, and the settled
statements of 70_reset_and_hazards. -/
namespace Sys2Proof.Machine

open Sys2Proof.Laws

variable {s : State} {P : Addr12} {bytes : List Byte}

/-! ### The indexed fields after reset (R290) -/

theorem resetWith_v (p : Config.Params) (r : Reg) : (State.resetWith p).v[r] = 0x00 :=
  Vector.getElem_replicate r.isLt

theorem resetWith_fb (p : Config.Params) (X : Fin 64) (Y : Fin 32) : (State.resetWith p).fb[X][Y] = false := by
  have hcolumn : (State.resetWith p).fb[X] = Vector.replicate 32 false := Vector.getElem_replicate X.isLt
  rw [hcolumn]
  exact Vector.getElem_replicate Y.isLt

theorem resetWith_key (p : Config.Params) (k : Fin 16) : (State.resetWith p).key[k] = false :=
  Vector.getElem_replicate k.isLt

/-- The written bits after reset are one bit for all registers, the parameter's (60_exceptions R263). -/
theorem resetWith_written (p : Config.Params) (r : RegId) :
    (State.resetWith p).written.get r = decide (p.resetRegs = .zero) := by
  cases r with
  | v x => exact Vector.getElem_replicate x.isLt
  | i | dt | st => rfl

/-! ### The two ends of a load (R290 to R292) -/

theorem act_load_of_fits (s : State) (h : bytes.length ≤ 3584) : act (.load bytes) s =
    .next { s.resetRegisters with mem := imageCells s.params.font loadAddress bytes } :=
  congrArg Host.Outcome.next (if_pos (decide_eq_true h))

theorem act_load_of_too_large (s : State) (h : bytes.length > 3584) : act (.load bytes) s =
    .next { s.resetRegisters with fault := ⟨some .loadTooLarge, 0, BitVec.ofNat 16 (min bytes.length 0xFFFF)⟩ } :=
  congrArg Host.Outcome.next (if_neg fun hfits => absurd (of_decide_eq_true hfits) (Nat.not_le.2 h))

/-- A loaded image, read with zeros around it: the font stands below the image, and every address above the font is
zero before the image is placed (R290, R291). -/
theorem memLookup_loadedImage (font : List Byte) (a : Nat) (bytes : List Byte) :
    (memLookup (imageCells font loadAddress bytes) a).getD (memBase font a) =
      if a < 0x050 then font.getD a 0x00 else if 0x200 ≤ a then bytes.getD (a - 0x200) 0x00 else 0x00 := by
  rw [memLookup_imageCells, loadAddress]
  by_cases hfont : a < 0x050
  · have hbelow : ¬ 0x200 ≤ a := by omega
    rw [if_neg hbelow, if_pos hfont, memBase, fontEnd, if_pos hfont]
  · rw [memBase, fontEnd, if_neg hfont, if_neg hfont]

/-! ### The parked core (R301) -/

/-- The word at `P` of a core parked there is the jump to `P`. -/
theorem State.parkedAt.fetch_eq (h : s.parkedAt P) : s.fetch = .ok (encode (.jp P)) := by
  obtain ⟨-, hpc, hlast, hword⟩ := h
  have hrange : s.pc.toNat ≤ 0xFFE := by omega
  have hjump : joinWord (s.readByte P.toNat) (s.readByte (P.toNat + 1)) = encode (.jp P) := by
    apply BitVec.eq_of_toNat_eq
    rw [joinWord_toNat, hword, encode, fmtNNN_toNat (by decide)]
  rw [State.fetch_ok hrange, hpc, hjump]

/-- A core parked at `P` jumps to the `pc` it already has (41_control_flow R140). -/
theorem State.parkedAt.act_step (h : s.parkedAt P) : act .step s = .next s := by
  have hfetch : s.fetch = .ok (encode (.jp P)) := h.fetch_eq
  obtain ⟨hmode, hpc, -⟩ := h
  have htarget : P.setWidth 16 = s.pc := by
    apply BitVec.eq_of_toNat_eq
    rw [hpc, BitVec.toNat_setWidth_of_le (by decide)]
  rw [act_step_of_decoded hmode hfetch (decodeWord_encode (.jp P)), exec_jp, htarget, State.setPc]

/-- A state that a step leaves as it is stays for every number of steps. -/
theorem run_of_step_eq_self {M : Host.Core} {s : M.State} (h : M.step s = .next s) (k : Nat) :
    M.run k s = .next s := by
  induction k with
  | zero => rfl
  | succ k ih =>
    rw [Host.Core.run, h]
    exact ih

/-! ### The settled statements -/

/-- Settles O43: memory is the loaded image over the font, and the registers are those of a reset. -/
theorem loadResetsTheCore : Obligations.LoadResetsTheCore := by
  intro s bytes hlen
  exact ⟨_, act_load_of_fits s hlen, fun a _ => memLookup_loadedImage s.params.font a bytes, rfl,
    resetWith_v s.params, rfl, rfl, rfl, rfl, rfl, rfl, rfl, resetWith_fb s.params, rfl, resetWith_key s.params, rfl,
    State.mode_eq_running.2 ⟨rfl, rfl⟩, rfl, resetWith_written s.params⟩

/-- Settles O55: the step of a parked core, with nothing lined up, leaves the state as it is. -/
theorem parkedCoreStaysParked : Obligations.ParkedCoreStaysParked := by
  intro s P k hparked hhost
  have hstep : step s = .next s := (step_of_nextOp (State.nextOp_of_host_nil hhost)).trans hparked.act_step
  exact run_of_step_eq_self (M := core) hstep k

/-- Settles O44: the registers are those of a reset, memory is untouched, and the cause put into the fault registers
is what disables the next step. -/
theorem oversizedLoadFaults : Obligations.OversizedLoadFaults := by
  intro s bytes hlen
  have haddr : (BitVec.ofNat 16 (min bytes.length 0xFFFF)).toNat = min bytes.length 0xFFFF := by
    rw [BitVec.toNat_ofNat]
    exact Nat.mod_eq_of_lt (by omega)
  refine ⟨_, act_load_of_too_large s hlen, ?faulted, rfl, rfl, rfl, haddr, fun _ => rfl, rfl,
    resetWith_v s.params, rfl, rfl, rfl, rfl, rfl, rfl, rfl, resetWith_fb s.params, rfl, resetWith_key s.params, rfl,
    resetWith_written s.params, act_step_of_faulted ?faulted⟩
  exact State.mode_eq_faulted.2 nofun

end Sys2Proof.Machine
